-- ==== Sys2Proof/Word.lean ====
section
/-! DEFINITION. The value types of the block (00_scope.md R9, R10): all unsigned, bit 0 the least significant. -/

namespace Sys2Proof

/-- An 8-bit unsigned value: a scan byte, a LUT entry, a character. -/
abbrev Byte := BitVec 8

/-- An 11-bit frame, bit k the k-th level received (20_memory.md R54). -/
abbrev Frame := BitVec 11

/-- The 4-bit operation word RST, TK, EG, D (30_encoding.md R70). -/
abbrev OpWord := BitVec 4

/-- The bit counter's type, 0..11 (10_state.md R24, 92_eei_decisions.md D18). -/
abbrev Count := Fin 12

end Sys2Proof
end

