-- ==== Sys2Proof/Machine/Operands.lean ====
section
/-! DEFINITION. The fixed values of 00_scope.md R6, and the bit fields the operations read and write: inserting one bit of SHIFT,
the scan byte SHIFT[8:1], and the bits of a keyboard frame. -/

namespace Sys2Proof.Machine

/-- FRAME_BITS (R6): a frame is 11 bits. -/
def frameBits : Nat := 11

/-- RELEASE_PREFIX (R6). -/
def releasePrefix : Byte := 0xF0

/-- NONE_CODE (R6): the value of LAST that means "none" (10_state.md R28). -/
def noneCode : Byte := 0x00

/-- The write `SHIFT[k] <- d` of 40_framer.md R104: bit k becomes d and no other bit changes (R113 (c)). -/
def setBit (f : Frame) (k : Nat) (d : Bool) : Frame :=
  if d then f ||| (1#11 <<< k) else f &&& ~~~(1#11 <<< k)

/-- FrameByte, `SHIFT[8:1]` (40_framer.md R102). -/
def frameByte (f : Frame) : Byte := f.extractLsb' 1 8

/-- The 8 data bits of a byte in the order they travel, least significant first (20_memory.md R54). -/
def dataBits (b : Byte) : List Bool :=
  [b.getLsbD 0, b.getLsbD 1, b.getLsbD 2, b.getLsbD 3, b.getLsbD 4, b.getLsbD 5, b.getLsbD 6, b.getLsbD 7]

/-- The 11 levels of a keyboard frame of byte b with parity bit p, first received first
(30_encoding.md R74, R77): start 0, the data bits, p, stop 1. -/
def wireFrame (b : Byte) (p : Bool) : List Bool :=
  [false] ++ dataBits b ++ [p, true]

/-- The operation word of its four fields, RST in bit 3 down to D in bit 0 (30_encoding.md R70). -/
def opWord (rst tk eg d : Bool) : OpWord :=
  BitVec.ofBool rst ++ BitVec.ofBool tk ++ BitVec.ofBool eg ++ BitVec.ofBool d

end Sys2Proof.Machine
end

