-- ==== Sys2Proof/Syntax.lean ====
section
/-! DEFINITION. The operations of spec/opcode_table.json (30_encoding.md R71), one constructor each. -/

namespace Sys2Proof

/-- One operation of a step. The only operand is d, the data-line level an edge event carries
(30_encoding.md R72). -/
inductive Instr where
  /-- RESET, 70_reset_and_hazards.md R200. -/
  | reset
  /-- NOP, 40_framer.md R105. -/
  | nop
  /-- EDGE d, 40_framer.md R104. -/
  | edge (d : Bool)
  /-- TAKE, 40_framer.md R106. -/
  | take
  /-- TAKE_EDGE d, 40_framer.md R110. -/
  | takeEdge (d : Bool)
deriving DecidableEq, Repr

end Sys2Proof
end

