-- ==== Sys2Proof/Decode.lean ====
section
/-! DEFINITION. Operation words to operations and back (30_encoding.md R70 to R73, R76). Every one of the 16 words decodes; what is no
4-bit word is rejected by name. -/

namespace Sys2Proof

/-- The operation a word selects: w[3] first, then w[2:1] (30_encoding.md R71, 40_framer.md R101). -/
def decodeWord (w : OpWord) : Instr :=
  if w.getLsbD 3 then .reset
  else
    match w.getLsbD 2, w.getLsbD 1 with
    | false, false => .nop
    | false, true => .edge (w.getLsbD 0)
    | true, false => .take
    | true, true => .takeEdge (w.getLsbD 0)

/-- Why a number or a list of bytes holds no operation word (log 8). -/
inductive DecodeError where
  /-- A bit above bit 3 is set: the value is wider than the 4-bit word of 30_encoding.md R70. -/
  | widerThanWord
  /-- No byte is left to read a word from. -/
  | noWord
deriving DecidableEq, Repr

/-- Decode a number whose bit i is bit i of the word; a number of 16 or more is no word. -/
def decodeBits (n : Nat) : Except DecodeError Instr :=
  if n < 16 then .ok (decodeWord (BitVec.ofNat 4 n)) else .error .widerThanWord

/-- Decode the first word of a list of bytes, one word a byte in its low four bits (DESIGN CHOICE, safe, log 8). -/
def decodeBytes : List Byte → Except DecodeError (Instr × List Byte)
  | [] => .error .noWord
  | b :: rest =>
    match decodeBits b.toNat with
    | .ok i => .ok (i, rest)
    | .error e => .error e

/-- The operation of an opcode-table row's word, given as the low nbits bits of w, every higher bit 0. -/
def decodeTableWord (nbits w : Nat) : Option Instr :=
  match decodeBits (w % 2 ^ nbits) with
  | .ok i => some i
  | .error _ => none

/-- The word of an operation, with its ignored bits 0 (30_encoding.md R76). -/
def encode : Instr → OpWord
  | .reset => 0x8
  | .nop => 0x0
  | .edge d => Machine.opWord false false true d
  | .take => 0x4
  | .takeEdge d => Machine.opWord false true true d

/-- The operation's name in spec/opcode_table.json. -/
def Instr.mnemonic : Instr → String
  | .reset => "RESET"
  | .nop => "NOP"
  | .edge _ => "EDGE"
  | .take => "TAKE"
  | .takeEdge _ => "TAKE_EDGE"

/-- A row of the operation map: its name and the mask and match of its pattern. -/
structure OpRow where
  mnemonic : String
  mask : OpWord
  pattern : OpWord
deriving DecidableEq, Repr

/-- The operation map of 30_encoding.md R71. -/
def opTable : List OpRow :=
  [⟨"RESET", 0b1000, 0b1000⟩,
   ⟨"NOP", 0b1110, 0b0000⟩,
   ⟨"EDGE", 0b1110, 0b0010⟩,
   ⟨"TAKE", 0b1110, 0b0100⟩,
   ⟨"TAKE_EDGE", 0b1110, 0b0110⟩]

/-- The word has the row's pattern. -/
def OpRow.selects (r : OpRow) (w : OpWord) : Bool := w &&& r.mask == r.pattern

end Sys2Proof
end

