-- ==== Sys2Proof/Config.lean ====
section
/-! DEFINITION. What an implementation fixes: the parameters of 00_scope.md R7. "A model takes these as arguments":
they are plain data, carried by the state and written by no step (DESIGN CHOICE, safe, log 1). Their default values are in
Machine/Defaults.lean. The spec leaves no value free beyond them, so there is no uninterpreted constant here. -/

namespace Sys2Proof

/-- An inclusive range of bytes. -/
structure ByteRange where
  lo : Byte
  hi : Byte
deriving DecidableEq, Repr

/-- The parameters of 00_scope.md R7. -/
structure Params where
  /-- TABLE_LEN, 1 to 256. -/
  tableLen : Nat
  /-- LUT as cells (index, byte): indexes strictly rising, no byte 0x00; an unlisted index reads 0x00
  (41_translator.md R150). -/
  lut : List Host.Cell
  /-- ENTER_SENTINEL. -/
  enterSentinel : Byte
  /-- BACKSPACE_CODE. -/
  backspaceCode : Byte
  /-- IsPrintable, as the union of inclusive ranges: a byte is printable when some range holds it. -/
  printable : List ByteRange
  /-- PARITY_CHECK (00_scope.md R8). -/
  parityCheck : Bool
  /-- SYNC_STAGES, at least 1. -/
  syncStages : Nat
deriving DecidableEq, Repr

end Sys2Proof
end

