-- ==== Sys2Proof/Machine/Flags.lean ====
section
/-! DEFINITION. The computations behind the flags: the counter's step and READY (40_framer.md R104, R113), odd parity and the
frame check (R103). PEND's rule is in Machine/Translator.lean. -/

namespace Sys2Proof.Machine

/-- `COUNT + 1` (R113 (a)): defined on 0 to 10, where the sum is 1 to 11; COUNT = 11 has no successor. -/
def nextCount (c : Count) : Option Count :=
  if h : c.val + 1 < 12 then some ⟨c.val + 1, h⟩ else none

/-- READY after the counter becomes c: "on reaching the 11th bit it sets a ready flag" (R104). -/
def readyAt (c : Count) : Bool := c.val == frameBits

/-- The exclusive-or of bits 1 to 9 of a frame: the 8 data bits and the parity bit (R103). -/
def frameXor (f : Frame) : Bool :=
  f.getLsbD 1 ^^ f.getLsbD 2 ^^ f.getLsbD 3 ^^ f.getLsbD 4 ^^ f.getLsbD 5 ^^ f.getLsbD 6 ^^ f.getLsbD 7 ^^
    f.getLsbD 8 ^^ f.getLsbD 9

/-- FrameOk (40_framer.md R103): start bit 0, stop bit 1, odd parity over data and parity bits. -/
def frameOk (f : Frame) : Bool :=
  !f.getLsbD 0 && f.getLsbD 10 && frameXor f

/-- The parity bit of a correct frame of b: 1 xor b[0] xor … xor b[7] (30_encoding.md R77). -/
def oddParity (b : Byte) : Bool :=
  (dataBits b).foldl (· ^^ ·) true

end Sys2Proof.Machine
end

