-- ==== Sys2Proof/Machine/Defaults.lean ====
section
/-! DEFINITION. The default parameters of 00_scope.md R7, with the default LUT of 41_translator.md R150. The spec takes these values
from general knowledge (92_eei_decisions.md D10 to D14; log 2): a repository with another table is another Params. -/

namespace Sys2Proof.Machine

/-- Rows 0x0_ and 0x1_ of the default LUT (R150). -/
def defaultLutRows01 : List Host.Cell :=
  [(0x0D, 0x09), (0x0E, 0x60),
   (0x15, 0x71), (0x16, 0x31), (0x1A, 0x7A), (0x1B, 0x73), (0x1C, 0x61), (0x1D, 0x77), (0x1E, 0x32)]

/-- Row 0x2_. -/
def defaultLutRow2 : List Host.Cell :=
  [(0x21, 0x63), (0x22, 0x78), (0x23, 0x64), (0x24, 0x65), (0x25, 0x34), (0x26, 0x33),
   (0x29, 0x20), (0x2A, 0x76), (0x2B, 0x66), (0x2C, 0x74), (0x2D, 0x72), (0x2E, 0x35)]

/-- Row 0x3_. -/
def defaultLutRow3 : List Host.Cell :=
  [(0x31, 0x6E), (0x32, 0x62), (0x33, 0x68), (0x34, 0x67), (0x35, 0x79), (0x36, 0x36),
   (0x3A, 0x6D), (0x3B, 0x6A), (0x3C, 0x75), (0x3D, 0x37), (0x3E, 0x38)]

/-- Row 0x4_. -/
def defaultLutRow4 : List Host.Cell :=
  [(0x41, 0x2C), (0x42, 0x6B), (0x43, 0x69), (0x44, 0x6F), (0x45, 0x30), (0x46, 0x39),
   (0x49, 0x2E), (0x4A, 0x2F), (0x4B, 0x6C), (0x4C, 0x3B), (0x4D, 0x70), (0x4E, 0x2D)]

/-- Rows 0x5_, 0x6_ and 0x7_. -/
def defaultLutRows567 : List Host.Cell :=
  [(0x52, 0x27), (0x54, 0x5B), (0x55, 0x3D), (0x5A, 0x0D), (0x5B, 0x5D), (0x5D, 0x5C),
   (0x66, 0x08),
   (0x76, 0x1B)]

/-- The default LUT: PS/2 scan code set 2, US layout, unshifted, to ASCII (R150). -/
def defaultLut : List Host.Cell :=
  defaultLutRows01 ++ defaultLutRow2 ++ defaultLutRow3 ++ defaultLutRow4 ++ defaultLutRows567

/-- The defaults of 00_scope.md R7. -/
def defaultParams : Params where
  tableLen := 128
  lut := defaultLut
  enterSentinel := 0x0D
  backspaceCode := 0x66
  printable := [⟨0x20, 0x7E⟩]
  parityCheck := false
  syncStages := 2

end Sys2Proof.Machine
end

