-- ==== Sys2Proof/Machine/State.lean ====
section
/-! DEFINITION. The complete state of KBD-DECODER (10_state.md R32), the parameters it was built with, the inputs still to come, and
the state RESET leaves (70_reset_and_hazards.md R202). -/

namespace Sys2Proof.Machine

/-- The kind of a key event, the field OUT.KIND (10_state.md R29). -/
inductive Kind where
  | none
  | insert
  | commit
  | backspace
deriving DecidableEq, Repr

/-- The result register OUT (10_state.md R29), its five fields. -/
structure Out where
  /-- OUT.BV: a scan byte was taken this step. -/
  bv : Bool
  /-- OUT.BYTE: the scan byte taken. -/
  byte : Byte
  /-- OUT.KIND: the key event. -/
  kind : Kind
  /-- OUT.CHAR: the character of an INSERT. -/
  char : Byte
  /-- OUT.FERR: the taken frame failed the frame check. -/
  ferr : Bool
deriving DecidableEq, Repr

/-- OUT_ZERO (10_state.md R29). -/
def Out.zero : Out := ⟨false, 0x00, .none, 0x00, false⟩

/-- The input ports sampled at one rising edge of clk (10_state.md R31). -/
structure PortSample where
  rst : Bool
  take : Bool
  kbdClk : Bool
  kbdData : Bool
deriving DecidableEq, Repr

/-- What the outside presents to one step: at the CORE level an operation word, at the FRONT-END level the sampled
input ports (00_scope.md R5, 30_encoding.md R70; log 3, log 4). -/
inductive Input where
  | word (w : OpWord)
  | cycle (c : PortSample)
deriving DecidableEq, Repr

/-- The ways a step can stop. The hardware has none (60_exceptions.md R180). -/
inductive Fault where
  /-- Raised by EDGE and TAKE_EDGE that accept a bit while COUNT = 11 and READY = 0: SHIFT[11] and the count 12 do not
  exist. Such a state breaks 10_state.md R26 (b), no run from reset reaches it, and the spec gives it no behaviour
  (93_implementation_defined.md I3). Safe (DESIGN CHOICE, log 6). -/
  | accumulatorOverrun
deriving DecidableEq, Repr

/-- Operations without a meaning. Every operation of the table has one, so no step answers with this. -/
inductive Refusal where
  /-- Raised by exec for an operation that has no meaning yet (none). Safe. -/
  | notModelled (mnemonic : String)
deriving DecidableEq, Repr

structure State where
  /-- The parameters of 00_scope.md R7: constants, written by no step (log 1). -/
  params : Params
  /-- SHIFT (10_state.md R23). -/
  shift : Frame
  /-- COUNT (10_state.md R24). -/
  count : Count
  /-- READY (10_state.md R25). -/
  ready : Bool
  /-- PEND (10_state.md R27). -/
  pend : Bool
  /-- LAST (10_state.md R28). -/
  last : Byte
  /-- OUT (10_state.md R29). -/
  out : Out
  /-- SYNC_C (10_state.md R30), bit 0 first, SYNC_STAGES bits. -/
  syncC : List Bool
  /-- SYNC_D (10_state.md R30), bit 0 first, SYNC_STAGES bits. -/
  syncD : List Bool
  /-- PREV_C (10_state.md R30). -/
  prevC : Bool
  /-- The inputs of the coming steps, oldest first: the model's own field (log 3). -/
  inputs : List Input
deriving DecidableEq, Repr

/-- What a step or an operation answers. -/
abbrev Outcome := Host.Outcome State Fault Refusal

/-- The reset values of 10_state.md R32, for a machine with parameters p and nothing listed to come. -/
def State.initial (p : Params) : State where
  params := p
  shift := 0x000
  count := 0
  ready := false
  pend := false
  last := noneCode
  out := Out.zero
  syncC := List.replicate p.syncStages true
  syncD := List.replicate p.syncStages true
  prevC := true
  inputs := []

/-- The machine right after reset, with the default parameters (70_reset_and_hazards.md R202; log 2, log 7). -/
def State.reset : State := State.initial defaultParams

end Sys2Proof.Machine
end

