-- ==== Sys2Proof/Machine/Lut.lean ====
section
/-! DEFINITION. The LUT, the block's only address space (20_memory.md R50 to R53): its read, its canonical form, and the predicate
IsPrintable. Nothing writes the LUT (R64), so there is no write operation. -/

namespace Sys2Proof.Machine

/-- What an index of the LUT that is not listed reads as: "Every entry not listed below is 0x00 (no mapping)"
(41_translator.md R150). -/
def unlistedEntry : Byte := 0x00

/-- `MemRead(LUT, a, 1)`: the byte at index a (00_scope.md R10, 20_memory.md R50). -/
def lutRead : List Host.Cell → Nat → Byte
  | [], _ => unlistedEntry
  | (a', b) :: rest, a => if a = a' then b else lutRead rest a

/-- The canonical form of a LUT of n entries: indexes strictly rising and below n, and no cell equal to what an
unlisted index reads as. -/
abbrev LutWf (n : Nat) (lut : List Host.Cell) : Prop :=
  lut.Pairwise (fun x y => x.1 < y.1) ∧ ∀ c ∈ lut, c.1 < n ∧ c.2 ≠ unlistedEntry

/-- LookupLUT (20_memory.md R51): bounds-checked, "out-of-range byte → no mapping". -/
def lookupLut (p : Params) (b : Byte) : Option Byte :=
  if b.toNat < p.tableLen then some (lutRead p.lut b.toNat) else none

/-- IsPrintable (41_translator.md R153): some range of the parameter holds c. -/
def isPrintable (p : Params) (c : Byte) : Bool :=
  p.printable.any fun r => decide (r.lo ≤ c) && decide (c ≤ r.hi)

end Sys2Proof.Machine
end

