-- ==== Sys2Proof/Machine/Translator.lean ====
section
/-! DEFINITION. The translator (41_translator.md): a pure function of the byte and of PEND and LAST, and how its key event stands in OUT
(40_framer.md R106). -/

namespace Sys2Proof.Machine

/-- A key event (00_scope.md R11). -/
inductive KeyEvent where
  | none
  | insert (c : Byte)
  | commit
  | backspace
deriving DecidableEq, Repr

/-- Kind(e) of 40_framer.md R106. -/
def KeyEvent.kind : KeyEvent → Kind
  | .none => .none
  | .insert _ => .insert
  | .commit => .commit
  | .backspace => .backspace

/-- Char(e) of 40_framer.md R106. -/
def KeyEvent.char : KeyEvent → Byte
  | .none => 0x00
  | .insert c => c
  | .commit => 0x00
  | .backspace => 0x00

/-- The two-bit code of OUT.KIND (10_state.md R29). -/
def Kind.code : Kind → BitVec 2
  | .none => 0b00
  | .insert => 0b01
  | .commit => 0b10
  | .backspace => 0b11

/-- The event of an accepted byte, branch D of 41_translator.md R141: the sentinel test on the LUT entry, then the
backspace test on the byte, then the printable test on the entry. -/
def acceptEvent (p : Params) (b : Byte) : KeyEvent :=
  if lookupLut p b = some p.enterSentinel then .commit
  else if b = p.backspaceCode then .backspace
  else
    match lookupLut p b with
    | some c => if isPrintable p c then .insert c else .none
    | none => .none

/-- Translate (41_translator.md R141): the event and the next PEND and LAST. -/
def translateByte (p : Params) (pend : Bool) (last b : Byte) : KeyEvent × Bool × Byte :=
  if b = releasePrefix then (.none, true, last)
  else if pend then (.none, false, noneCode)
  else if b = last then (.none, pend, last)
  else (acceptEvent p b, false, b)

/-- The OUT of a step that took byte b with event e (40_framer.md R106). -/
def Out.taken (b : Byte) (e : KeyEvent) : Out := ⟨true, b, e.kind, e.char, false⟩

/-- The OUT of a step whose frame failed the frame check (40_framer.md R106, R112 (a)). -/
def Out.frameError : Out := ⟨false, 0x00, .none, 0x00, true⟩

end Sys2Proof.Machine
end

