-- ==== Sys2Proof/Machine/Ops.lean ====
section
/-! DEFINITION. The named updates of the state, and the two operations the meanings share: the accumulator accepting a level and the
accumulator being taken. There is no exception entry and no return, because the block has no exception (60_exceptions.md
R180, R186, R187). -/

namespace Sys2Proof.Machine

/-- Write the three registers of the frame accumulator together (20_memory.md R58). -/
def State.setAccumulator (f : Frame) (c : Count) (r : Bool) (s : State) : State :=
  { s with shift := f, count := c, ready := r }

/-- Write the translator state register. -/
def State.setTranslator (pend : Bool) (last : Byte) (s : State) : State :=
  { s with pend := pend, last := last }

/-- Write OUT. -/
def State.setOut (o : Out) (s : State) : State :=
  { s with out := o }

/-- Write the state of EDGE-DET. -/
def State.setEdgeDet (syncC syncD : List Bool) (prevC : Bool) (s : State) : State :=
  { s with syncC := syncC, syncD := syncD, prevC := prevC }

/-- Replace the inputs still to come. -/
def State.setInputs (inputs : List Input) (s : State) : State :=
  { s with inputs := inputs }

/-- The start-bit hunt drops this level: PARITY_CHECK, COUNT = 0 and d = 1 (40_framer.md R104, R112 (b)). -/
def State.huntDrops (d : Bool) (s : State) : Bool :=
  s.params.parityCheck && s.count == 0 && d

/-- The accumulator's part of EDGE (40_framer.md R104): drop the level, or store it at SHIFT[COUNT]. Nothing but SHIFT,
COUNT and READY can change. -/
def edgeFramer (d : Bool) (s : State) : Outcome :=
  if s.ready then .next s
  else if s.huntDrops d then .next s
  else
    match nextCount s.count with
    | some c => .next (s.setAccumulator (setBit s.shift s.count.val d) c (readyAt c))
    | none => .fault .accumulatorOverrun

/-- The accumulator as TAKE and RESET clear it. -/
def State.clearAccumulator (s : State) : State :=
  s.setAccumulator 0x000 0 false

/-- Hand byte b to the translator and report it in OUT (40_framer.md R106). -/
def State.report (b : Byte) (s : State) : State :=
  let r := translateByte s.params s.pend s.last b
  (s.setTranslator r.2.1 r.2.2).setOut (Out.taken b r.1)

/-- TAKE as a function of the state (40_framer.md R106): it tests READY, and when it is 1 clears the accumulator and
either reports the byte or, with PARITY_CHECK and a bad frame, the frame error. -/
def takeFramer (s : State) : State :=
  if s.ready then
    if s.params.parityCheck && !frameOk s.shift then
      s.clearAccumulator.setOut Out.frameError
    else
      s.clearAccumulator.report (frameByte s.shift)
  else s.setOut Out.zero

end Sys2Proof.Machine
end

