-- ==== Sys2Proof/Machine/Reset.lean ====
section
/-! DEFINITION. The meaning of RESET (70_reset_and_hazards.md R200). -/

namespace Sys2Proof.Machine

/-- EDGE-DET at its reset value, every bit 1 (10_state.md R30). -/
def State.idleEdgeDet (s : State) : State :=
  s.setEdgeDet (List.replicate s.params.syncStages true) (List.replicate s.params.syncStages true) true

/-- RESET (R200): every register to its reset value; the parameters are not state and stay. -/
def execReset (s : State) : Outcome :=
  .next (((s.clearAccumulator.setTranslator false noneCode).setOut Out.zero).idleEdgeDet)

end Sys2Proof.Machine
end

