-- ==== Sys2Proof/Machine/FrontEnd.lean ====
section
/-! DEFINITION. EDGE-DET, the front end (40_framer.md R100): what it makes of the two keyboard lines in one cycle, and its registers'
update. -/

namespace Sys2Proof.Machine

/-- The last stage of a synchroniser, SYNC[SYNC_STAGES-1] (10_state.md R30). A list that is too short (no reachable
state has one) reads as the idle level 1 (DESIGN CHOICE, unsafe only in unreachable states, log 13). -/
def lastStage (stages : Nat) (sync : List Bool) : Bool :=
  sync.getD (stages - 1) true

/-- A synchroniser after one cycle: the sampled level enters at bit 0 and the last stage leaves (R100). -/
def shiftStage (stages : Nat) (sync : List Bool) (level : Bool) : List Bool :=
  (level :: sync).take stages

/-- clk_s (R100). -/
def State.clkS (s : State) : Bool := lastStage s.params.syncStages s.syncC

/-- data_s (R100). -/
def State.dataS (s : State) : Bool := lastStage s.params.syncStages s.syncD

/-- EG (R100): PREV_C = 1 and clk_s = 0, "falling edges on the clock line only". -/
def State.fallingEdge (s : State) : Bool := s.prevC && !s.clkS

/-- The operation word of a cycle (30_encoding.md R70): RST and TK from the ports, EG and D from EDGE-DET, which makes no
edge event while rst = 1 (70_reset_and_hazards.md R201). -/
def State.cycleWord (c : PortSample) (s : State) : OpWord :=
  opWord c.rst c.take (!c.rst && s.fallingEdge) s.dataS

/-- EDGE-DET's register updates at the end of a cycle with rst = 0 (R100). -/
def State.clockEdgeDet (c : PortSample) (s : State) : State :=
  s.setEdgeDet (shiftStage s.params.syncStages s.syncC c.kbdClk) (shiftStage s.params.syncStages s.syncD c.kbdData) s.clkS

/-- EDGE-DET's part of a cycle. With rst = 1 it does not run; the RESET of that cycle then writes it (R201; log 12). -/
def State.runEdgeDet (c : PortSample) (s : State) : State :=
  if c.rst then s else s.clockEdgeDet c

/-- EDGE-DET's state after a whole cycle, the RESET of a cycle with rst = 1 included. -/
def State.edgeDetAfter (c : PortSample) (s : State) : State :=
  if c.rst then s.idleEdgeDet else s.clockEdgeDet c

/-- The operation words EDGE-DET and the ports give over a list of cycles. -/
def State.cycleWords : List PortSample → State → List OpWord
  | [], _ => []
  | c :: cs, s => s.cycleWord c :: State.cycleWords cs (s.edgeDetAfter c)

/-- A cycle in which nobody drives anything: no reset, no take request, both lines at their pull-up level 1
(10_state.md R31). -/
def idleCycle : PortSample := ⟨false, false, true, true⟩

/-- The input of the next step: the oldest listed one, or an idle cycle when none is listed (DESIGN CHOICE, unsafe,
log 3). -/
def State.nextInput (s : State) : Input :=
  match s.inputs with
  | [] => .cycle idleCycle
  | i :: _ => i

/-- The state with its next input consumed. -/
def State.dropInput (s : State) : State := s.setInputs s.inputs.tail

/-- Present word w to the very next step, in place of the input listed for it. -/
def State.presentWord (w : OpWord) (s : State) : State := s.setInputs (.word w :: s.inputs.tail)

end Sys2Proof.Machine
end

