-- ==== Sys2Proof/Machine/Framer.lean ====
section
/-! DEFINITION. The meanings of the operations of 40_framer.md: EDGE, NOP, TAKE and TAKE_EDGE. -/

namespace Sys2Proof.Machine

/-- EDGE d (40_framer.md R104). -/
def execEdge (d : Bool) (s : State) : Outcome :=
  edgeFramer d (s.setOut Out.zero)

/-- NOP (40_framer.md R105). -/
def execNop (s : State) : Outcome :=
  .next (s.setOut Out.zero)

/-- TAKE (40_framer.md R106). -/
def execTake (s : State) : Outcome :=
  .next (takeFramer s)

/-- TAKE_EDGE d (40_framer.md R110): TAKE, then the accumulator's part of EDGE on the state TAKE left; OUT stays TAKE's. -/
def execTakeEdge (d : Bool) (s : State) : Outcome :=
  edgeFramer d (takeFramer s)

end Sys2Proof.Machine
end

