-- ==== Sys2Proof/Machine/Dispatch.lean ====
section
/-! DEFINITION. One arm for each operation of spec/opcode_table.json. -/

namespace Sys2Proof.Machine

/-- The CORE step's choice of operation (40_framer.md R101). -/
def exec (i : Instr) (s : State) : Host.Outcome State Fault Refusal :=
  match i with
  | .reset => Sys2Proof.Machine.execReset s
  | .nop => Sys2Proof.Machine.execNop s
  | .edge d => Sys2Proof.Machine.execEdge d s
  | .take => Sys2Proof.Machine.execTake s
  | .takeEdge d => Sys2Proof.Machine.execTakeEdge d s

end Sys2Proof.Machine
end

