-- ==== Sys2Proof/Machine/Perform.lean ====
section
/-! DEFINITION. One step on one input, at either level of 00_scope.md R5, and runs of operations one after another. -/

namespace Sys2Proof.Machine

/-- One step on one input. CORE level: the word's operation, and nothing else (log 4). FRONT-END level: EDGE-DET's
part of the cycle, and the operation of the word EDGE-DET and the ports give (40_framer.md R100, R101). -/
def perform (i : Input) (s : State) : Outcome :=
  match i with
  | .word w => exec (decodeWord w) s
  | .cycle c => exec (decodeWord (s.cycleWord c)) (s.runEdgeDet c)

/-- Apply operations one at a time in order (20_memory.md R61), stopping at a fault or a refusal. -/
def execAll : List Instr → State → Outcome
  | [], s => .next s
  | i :: is, s =>
    match exec i s with
    | .next t => execAll is t
    | .fault r => .fault r
    | .refused r => .refused r

/-- The OUT of every step of a run of operations, in order. -/
def execOuts : List Instr → State → List Out
  | [], _ => []
  | i :: is, s =>
    match exec i s with
    | .next t => t.out :: execOuts is t
    | .fault _ => []
    | .refused _ => []

end Sys2Proof.Machine
end

