-- ==== Sys2Proof/Machine/Step.lean ====
section
/-! DEFINITION. One clk cycle of the machine, and how a word is presented to the next one. -/

namespace Sys2Proof.Machine

/-- One step: the next input is consumed and performed (40_framer.md R101, 70_reset_and_hazards.md R217). -/
def step (s : State) : Host.Outcome State Fault Refusal :=
  perform s.nextInput s.dropInput

/-- The state in which the very next step reads the operation word in the low four bits of w (log 7, log 8). -/
def State.withFetchWord (s : State) (nbits w : Nat) : State :=
  s.presentWord (BitVec.ofNat 4 (w % 2 ^ nbits))

end Sys2Proof.Machine
end

