-- ==== Sys2Proof/Machine/Assembly.lean ====
section
/-! DEFINITION. The spec's way of writing operations: one line each (30_encoding.md R76), and the pseudo-operations with their
expansions (R77). -/

namespace Sys2Proof.Machine

/-- The line of an operation (R76). -/
def lineOf : Instr → List Char
  | .reset => ['R', 'E', 'S', 'E', 'T']
  | .nop => ['N', 'O', 'P']
  | .edge false => ['E', 'D', 'G', 'E', ' ', '0']
  | .edge true => ['E', 'D', 'G', 'E', ' ', '1']
  | .take => ['T', 'A', 'K', 'E']
  | .takeEdge false => ['T', 'A', 'K', 'E', '_', 'E', 'D', 'G', 'E', ' ', '0']
  | .takeEdge true => ['T', 'A', 'K', 'E', '_', 'E', 'D', 'G', 'E', ' ', '1']

/-- Every operation with every operand. -/
def allInstrs : List Instr :=
  [.reset, .nop, .edge false, .edge true, .take, .takeEdge false, .takeEdge true]

/-- A line without its comment, which starts with `;`, and without spaces at its ends (log 14). -/
def stripLine (line : List Char) : List Char :=
  (((line.takeWhile (· != ';')).dropWhile (· == ' ')).reverse.dropWhile (· == ' ')).reverse

/-- Read one line: the operation whose line it is (R76). -/
def parseLine (line : List Char) : Option Instr :=
  allInstrs.find? fun i => lineOf i == stripLine line

/-- The pseudo-operations of R77. -/
inductive Pseudo where
  | bits (s : List Bool)
  | frame (b : Byte)
  | framep (b : Byte) (p : Bool)
  | key (b : Byte)
  | wait (n : Nat)
deriving DecidableEq, Repr

/-- `BITS s`: an EDGE for each level, first to last. -/
def expandBits (s : List Bool) : List Instr := s.map Instr.edge

/-- `FRAME b`: the frame of b with correct framing and odd parity. -/
def expandFrame (b : Byte) : List Instr := expandBits (wireFrame b (oddParity b))

/-- What a pseudo-operation expands to, in order (R77). -/
def Pseudo.expand : Pseudo → List Instr
  | .bits s => expandBits s
  | .frame b => expandFrame b
  | .framep b p => expandBits (wireFrame b p)
  | .key b =>
    expandFrame b ++ [.take] ++ expandFrame releasePrefix ++ [.take] ++ expandFrame b ++ [.take]
  | .wait n => List.replicate n .nop

end Sys2Proof.Machine
end

