-- ==== Sys2Proof/Machine/Ports.lean ====
section
/-! DEFINITION. The output ports of 10_state.md R31, as views of the state (log 10). -/

namespace Sys2Proof.Machine

/-- The levels on the output ports. -/
structure OutPorts where
  ready : Bool
  frameByte : Byte
  outBv : Bool
  outByte : Byte
  keyKind : BitVec 2
  keyChar : Byte
  frameErr : Bool
deriving DecidableEq, Repr

/-- `ready` and `frame_byte` show FRAMER state, the other ports the OUT register (R31). -/
def State.ports (s : State) : OutPorts where
  ready := s.ready
  frameByte := Sys2Proof.Machine.frameByte s.shift
  outBv := s.out.bv
  outByte := s.out.byte
  keyKind := s.out.kind.code
  keyChar := s.out.char
  frameErr := s.out.ferr

end Sys2Proof.Machine
end

