-- ==== Sys2Proof/WellFormed.lean ====
section
/-! DEFINITION. What is well formed. An operation always is: every word has a meaning and the one operand is a bit
(30_encoding.md R72, R73). The checks are on the parameters (00_scope.md R7, 41_translator.md R153). -/

namespace Sys2Proof

/-- No operation is ill formed (30_encoding.md R73: no reserved, illegal or hint encoding). -/
def Instr.wf : Instr → Bool
  | .reset => true
  | .nop => true
  | .edge _ => true
  | .take => true
  | .takeEdge _ => true

/-- 1 ≤ TABLE_LEN ≤ 256 (R7). -/
abbrev Params.TableLenOk (p : Params) : Prop := 1 ≤ p.tableLen ∧ p.tableLen ≤ 256

/-- The LUT is in its canonical form and holds nothing outside the table (20_memory.md R50). -/
abbrev Params.LutOk (p : Params) : Prop := Machine.LutWf p.tableLen p.lut

/-- IsPrintable excludes 0x00 (41_translator.md R153: "a model must pick one that does"). -/
abbrev Params.PrintableOk (p : Params) : Prop := Machine.isPrintable p 0x00 = false

/-- SYNC_STAGES ≥ 1 (R7). -/
abbrev Params.SyncOk (p : Params) : Prop := 1 ≤ p.syncStages

/-- Parameters the spec allows. -/
abbrev Params.Wf (p : Params) : Prop := p.TableLenOk ∧ p.LutOk ∧ p.PrintableOk ∧ p.SyncOk

end Sys2Proof
end

