-- ==== Sys2Proof/Safety.lean ====
section
/-! DEFINITION. The terms claims are stated in: the invariants of the state, the states a run reaches, a mailbox of plain levels the
framer is compared with, the lines' history EDGE-DET is compared with, and what the framing bits of a frame may touch. -/

namespace Sys2Proof.Machine

/-- 10_state.md R26 (b) and (c); (a) holds by the type of COUNT. -/
abbrev State.AccumulatorOk (s : State) : Prop :=
  (s.ready = true ↔ s.count.val = 11) ∧ ∀ i : Fin 11, s.count.val ≤ i.val → s.shift.getLsbD i.val = false

/-- What OUT may hold (10_state.md R29): no byte, no event and no character without BV; a character only with INSERT,
and then a printable one; a frame error only with PARITY_CHECK and without a byte. -/
abbrev State.OutOk (s : State) : Prop :=
  (s.out.bv = false → s.out.byte = 0x00 ∧ s.out.kind = .none) ∧
  (s.out.kind ≠ .insert → s.out.char = 0x00) ∧
  (s.out.kind = .insert → isPrintable s.params s.out.char = true) ∧
  (s.out.ferr = true → s.params.parityCheck = true ∧ s.out.bv = false)

/-- LAST never holds RELEASE_PREFIX (41_translator.md R142). -/
abbrev State.TranslatorOk (s : State) : Prop := s.last ≠ releasePrefix

/-- SYNC_C and SYNC_D have SYNC_STAGES bits (10_state.md R30). -/
abbrev State.EdgeDetOk (s : State) : Prop :=
  s.syncC.length = s.params.syncStages ∧ s.syncD.length = s.params.syncStages

/-- The invariant of the machine. -/
abbrev State.Inv (s : State) : Prop :=
  s.params.Wf ∧ s.AccumulatorOk ∧ s.OutOk ∧ s.TranslatorOk ∧ s.EdgeDetOk

/-- A run: from the reset values of a machine with allowed parameters, with any inputs to come, step by step
(70_reset_and_hazards.md R202, 60_exceptions.md R190). -/
inductive Reachable : State → Prop where
  | start (p : Params) (inputs : List Input) (h : p.Wf) : Reachable ((State.initial p).setInputs inputs)
  | step (s t : State) (h : Reachable s) (hst : Sys2Proof.Machine.step s = .next t) : Reachable t

/-- The number whose binary digits are the levels, the first the least significant. -/
def levelsToNat : List Bool → Nat
  | [] => 0
  | d :: ds => d.toNat + 2 * levelsToNat ds

/-- The frame of a list of levels, the k-th received at bit k (20_memory.md R54). -/
def frameOf (levels : List Bool) : Frame := BitVec.ofNat 11 (levelsToNat levels)

/-- The scan byte of a list of 11 levels: levels 1 to 8, least significant first (20_memory.md R54). -/
def byteOf (levels : List Bool) : Byte := BitVec.ofNat 8 (levelsToNat ((levels.drop 1).take 8))

/-- The accumulator holds exactly these levels, and READY says whether they are a whole frame. -/
abbrev State.Holds (s : State) (levels : List Bool) : Prop :=
  s.shift = frameOf levels ∧ s.count.val = levels.length ∧ (s.ready = true ↔ levels.length = 11)

/-- The single-slot mailbox of levels (20_memory.md R59): a level is appended, or dropped when a frame is complete. -/
def boxAccept (d : Bool) (levels : List Bool) : List Bool :=
  if levels.length = 11 then levels else levels ++ [d]

/-- Taking from the mailbox: a complete frame's byte once, otherwise nothing. -/
def boxTake (levels : List Bool) : Option Byte × List Bool :=
  if levels.length = 11 then (some (byteOf levels), []) else (none, levels)

/-- One operation on the mailbox: the byte it hands out, and the levels left. -/
def boxStep : Instr → List Bool → Option Byte × List Bool
  | .reset, _ => (none, [])
  | .nop, levels => (none, levels)
  | .edge d, levels => (none, boxAccept d levels)
  | .take, levels => boxTake levels
  | .takeEdge d, levels => ((boxTake levels).1, boxAccept d (boxTake levels).2)

/-- The bytes a run of operations hands out of the mailbox, in order. -/
def boxRun : List Instr → List Bool → List Byte
  | [], _ => []
  | i :: is, levels => (boxStep i levels).1.toList ++ boxRun is (boxStep i levels).2

/-- The bytes a list of OUT values reports as taken, in order. -/
def takenBytes (outs : List Out) : List Byte :=
  outs.filterMap fun o => if o.bv then some o.byte else none

/-- The key events a list of OUT values reports, in order, as kind and character. -/
def keyEvents (outs : List Out) : List (Kind × Byte) :=
  outs.filterMap fun o => if o.bv then some (o.kind, o.char) else none

/-- The levels of the EDGEs among operations, in order. -/
def edgeLevels (is : List Instr) : List Bool :=
  is.filterMap fun
    | .reset => none
    | .nop => none
    | .edge d => some d
    | .take => none
    | .takeEdge d => some d

/-- The translator over a list of bytes (41_translator.md R141): the events in order, and PEND and LAST at the end. -/
def translateAll (p : Params) : Bool → Byte → List Byte → List KeyEvent × Bool × Byte
  | pend, last, [] => ([], pend, last)
  | pend, last, b :: bs =>
    let r := translateByte p pend last b
    let rest := translateAll p r.2.1 r.2.2 bs
    (r.1 :: rest.1, rest.2)

/-- The level a line had n cycles before cycle k, given its samples from reset; the idle level 1 before the first. -/
def lineBefore (samples : List Bool) (n k : Nat) : Bool :=
  if k < n then true else samples.getD (k - n) true

/-- The state without EDGE-DET's registers: two states agree here when their CORE state, parameters and inputs do. -/
def State.coreView (s : State) : State := s.setEdgeDet [] [] true

/-- The level that an EDGE would store now stands at the start, parity or stop position (30_encoding.md R74). -/
abbrev framingPosition (c : Nat) : Prop := c = 0 ∨ c = 9 ∨ c = 10

/-- Two states that differ at most in SHIFT[0], SHIFT[9] and SHIFT[10]. -/
abbrev SameButFraming (s t : State) : Prop :=
  t = { s with shift := t.shift } ∧ frameByte t.shift = frameByte s.shift

/-- Two operations that differ at most in a level the accumulator would store at a framing position of s. -/
abbrev SameOperation (s : State) (i j : Instr) : Prop :=
  i = j ∨
  (∃ d e, i = .edge d ∧ j = .edge e ∧ (s.ready = true ∨ framingPosition s.count.val)) ∨
  (∃ d e, i = .takeEdge d ∧ j = .takeEdge e ∧ (s.ready = true ∨ framingPosition s.count.val))

end Sys2Proof.Machine
end

