-- ==== Sys2Proof/Certificates/Slice0/Obligations.lean ====
section
/-! DEFINITION. The statements for the provers, from the numbered rules of spec/. -/

open Sys2Proof Sys2Proof.Machine

/-! ### Encoding -/

/-- 30_encoding.md R71: each word selects exactly one operation, by mask and match; the five patterns partition the 16
words, 8 for RESET and 2 for each other operation. -/
def Obligations.OperationWordsSelectOneOperation : Prop :=
  (∀ w : OpWord, (w &&& 0b1000 = 0b1000 ↔ decodeWord w = .reset) ∧
    (w &&& 0b1110 = 0b0000 ↔ decodeWord w = .nop) ∧
    (∀ d, (w &&& 0b1110 = 0b0010 ∧ w.getLsbD 0 = d) ↔ decodeWord w = .edge d) ∧
    (w &&& 0b1110 = 0b0100 ↔ decodeWord w = .take) ∧
    (∀ d, (w &&& 0b1110 = 0b0110 ∧ w.getLsbD 0 = d) ↔ decodeWord w = .takeEdge d)) ∧
  (∀ w : OpWord, (opTable.filter fun r => r.selects w).map OpRow.mnemonic = [(decodeWord w).mnemonic]) ∧
  opTable.map (fun r => ((List.finRange 16).filter fun k => r.selects (BitVec.ofFin k)).length) = [8, 2, 2, 2, 2]

/-- 30_encoding.md R73: every one of the 16 words has a meaning, and words that differ only in ignored bits have the
same one; a state has no COUNT of 12 to 15. -/
def Obligations.IgnoredBitsDoNotMatter : Prop :=
  (∀ w : OpWord, decodeBits w.toNat = .ok (decodeWord w)) ∧
  (∀ w v : OpWord,
    (w.getLsbD 3 = true ∧ v.getLsbD 3 = true) ∨
    (w &&& 0b1110 = 0b0000 ∧ v &&& 0b1110 = 0b0000) ∨
    (w &&& 0b1110 = 0b0100 ∧ v &&& 0b1110 = 0b0100) →
    ∀ s : State, perform (.word w) s = perform (.word v) s) ∧
  (∀ s : State, s.count.val ≤ 11)

/-- 30_encoding.md R76: the lines of the seven operations and their words; a comment starts with `;`. -/
def Obligations.LinesAndTheirWords : Prop :=
  [['R','E','S','E','T'], ['N','O','P'], ['E','D','G','E',' ','0'], ['E','D','G','E',' ','1'], ['T','A','K','E'],
    ['T','A','K','E','_','E','D','G','E',' ','0'], ['T','A','K','E','_','E','D','G','E',' ','1']].map
      (fun line => (parseLine line).map encode) =
    [some 0x8, some 0x0, some 0x2, some 0x3, some 0x4, some 0x6, some 0x7] ∧
  [0x8, 0x0, 0x2, 0x3, 0x4, 0x6, 0x7].map decodeWord =
    [.reset, .nop, .edge false, .edge true, .take, .takeEdge false, .takeEdge true] ∧
  (∀ (i : Instr) (comment : List Char), parseLine (lineOf i ++ [';'] ++ comment) = some i)

/-- Decode and encode agree for every operation and operand, whether the word is given as a word, as a number, as the
first of a list of bytes or as a table row; what is wider than four bits is rejected by name (log 8). -/
def Obligations.EncodeThenDecode : Prop :=
  (∀ i : Instr, i.wf = true → decodeWord (encode i) = i ∧ decodeBits (encode i).toNat = .ok i ∧
    (∀ rest, decodeBytes ((encode i).setWidth 8 :: rest) = .ok (i, rest)) ∧
    (∀ nbits, 4 ≤ nbits → decodeTableWord nbits (encode i).toNat = some i)) ∧
  (∀ n, 16 ≤ n → decodeBits n = .error .widerThanWord) ∧ decodeBytes [] = .error .noWord

/-- 30_encoding.md R77: what each pseudo-operation expands to, and the SHIFT that FRAME b leaves from COUNT = 0 (the
accumulator well formed, so SHIFT = 0). -/
def Obligations.PseudoOperationsExpand : Prop :=
  (∀ levels : List Bool, (Pseudo.bits levels).expand = levels.map fun d => if d then .edge true else .edge false) ∧
  (∀ b p, (Pseudo.framep b p).expand =
    (Pseudo.bits ([false] ++ (List.finRange 8).map (fun j => b.getLsbD j.val) ++ [p, true])).expand) ∧
  (∀ b : Byte, (Pseudo.frame b).expand =
    (Pseudo.framep b (true ^^ b.getLsbD 0 ^^ b.getLsbD 1 ^^ b.getLsbD 2 ^^ b.getLsbD 3 ^^ b.getLsbD 4 ^^
      b.getLsbD 5 ^^ b.getLsbD 6 ^^ b.getLsbD 7)).expand) ∧
  (∀ b, (Pseudo.key b).expand =
    (Pseudo.frame b).expand ++ [.take] ++ (Pseudo.frame 0xF0).expand ++ [.take] ++ (Pseudo.frame b).expand ++ [.take]) ∧
  (∀ n, (Pseudo.wait n).expand = List.replicate n .nop) ∧
  (∀ (b : Byte) (s : State), s.AccumulatorOk → s.count = 0 →
    ∃ t, execAll (Pseudo.frame b).expand s = .next t ∧ t.count = 11 ∧ t.ready = true ∧
      t.shift = 0x400#11 ||| (if oddParity b then 0x200#11 else 0#11) ||| (b.setWidth 11 <<< 1))

/-- The keyboard's frame format, encoded and read back (30_encoding.md R72, R74; 20_memory.md R54): from a cleared
accumulator, the frame of any byte, sent level by level and then taken, reports exactly that byte, with the frame check
off or on, and the translator sees it. -/
def Obligations.FrameRoundTrip : Prop :=
  ∀ (b : Byte) (s : State), s.AccumulatorOk → s.count = 0 →
    ∃ t, execAll ((Pseudo.frame b).expand ++ [.take]) s = .next t ∧
      t.out = ⟨true, b, (translateByte s.params s.pend s.last b).1.kind, (translateByte s.params s.pend s.last b).1.char, false⟩ ∧
      t = { s with shift := 0, count := 0, ready := false,
                   pend := (translateByte s.params s.pend s.last b).2.1,
                   last := (translateByte s.params s.pend s.last b).2.2, out := t.out }

/-! ### The step -/

/-- The machine performs, at each step, the operation of the word presented to it (40_framer.md R101): at the CORE level
the word itself; at the FRONT-END level the word of the ports and EDGE-DET, whose registers move in a cycle with rst = 0;
with nothing listed, an idle cycle (DESIGN CHOICE, log 3). -/
def Obligations.StepPerformsThePresentedWord : Prop :=
  (∀ (s : State) w rest, s.inputs = .word w :: rest → step s = exec (decodeWord w) { s with inputs := rest }) ∧
  (∀ (s : State) c rest, s.inputs = .cycle c :: rest → c.rst = true → step s = exec .reset { s with inputs := rest }) ∧
  (∀ (s : State) c rest, s.inputs = .cycle c :: rest → c.rst = false →
    step s = exec (decodeWord (opWord false c.take (s.prevC && !s.clkS) s.dataS))
      { s with inputs := rest, syncC := shiftStage s.params.syncStages s.syncC c.kbdClk,
               syncD := shiftStage s.params.syncStages s.syncD c.kbdData, prevC := s.clkS }) ∧
  (∀ s : State, s.inputs = [] → step s = step { s with inputs := [.cycle ⟨false, false, true, true⟩] }) ∧
  (∀ (s : State) (w : OpWord), step (s.withFetchWord 8 w.toNat) = exec (decodeWord w) { s with inputs := s.inputs.tail })

/-- A run of the machine over listed words is the run of their operations one at a time in that order
(20_memory.md R61). -/
def Obligations.WordRunIsOperationRun : Prop :=
  ∀ (ws : List OpWord) (s : State) (rest : List Input),
    Host.Core.run Sys2Proof.core ws.length { s with inputs := ws.map Input.word ++ rest } =
      execAll (ws.map decodeWord) { s with inputs := rest }

/-- 40_framer.md R100: EDGE-DET's rule for one cycle, and what it means for whole histories. From the reset state, over
any cycles with rst = 0: the word of cycle k has EG = 1 exactly when the clock line was low SYNC_STAGES cycles before and
high one cycle earlier, and D is the data line SYNC_STAGES cycles before. So a falling edge gives exactly one cycle with
EG = 1, SYNC_STAGES cycles after the first low sample, with the data sampled in that cycle. Last, the rule's example. -/
def Obligations.EdgeDetectorFindsFallingEdges : Prop :=
  (∀ (s : State) (c : PortSample), s.EdgeDetOk → 1 ≤ s.params.syncStages → c.rst = false →
    ((s.cycleWord c).getLsbD 1 = true ↔ s.prevC = true ∧ s.syncC[s.params.syncStages - 1]? = some false) ∧
    s.syncD[s.params.syncStages - 1]? = some ((s.cycleWord c).getLsbD 0) ∧
    (s.edgeDetAfter c).syncC = c.kbdClk :: s.syncC.take (s.params.syncStages - 1) ∧
    (s.edgeDetAfter c).syncD = c.kbdData :: s.syncD.take (s.params.syncStages - 1) ∧
    s.syncC[s.params.syncStages - 1]? = some (s.edgeDetAfter c).prevC) ∧
  (∀ (p : Params) (cs : List PortSample) (k : Nat), 1 ≤ p.syncStages → (∀ c ∈ cs, c.rst = false) → k < cs.length →
    ∃ w, (State.cycleWords cs (State.initial p))[k]? = some w ∧
      (w.getLsbD 1 = true ↔ lineBefore (cs.map PortSample.kbdClk) (p.syncStages + 1) k = true ∧
        lineBefore (cs.map PortSample.kbdClk) p.syncStages k = false) ∧
      w.getLsbD 0 = lineBefore (cs.map PortSample.kbdData) p.syncStages k ∧
      (∀ c, cs[k]? = some c → w.getLsbD 2 = c.take) ∧ w.getLsbD 3 = false) ∧
  State.cycleWords [⟨false, false, true, true⟩, ⟨false, false, true, true⟩, ⟨false, false, false, false⟩,
      ⟨false, false, false, false⟩, ⟨false, false, true, false⟩, ⟨false, false, true, false⟩] State.reset =
    [0b0001, 0b0001, 0b0001, 0b0001, 0b0010, 0b0000]

/-- 70_reset_and_hazards.md R201: every cycle with rst = 1 is a RESET step, EDGE-DET included, with no edge event; after
it, no edge event comes earlier than SYNC_STAGES cycles after the first cycle with rst = 0. -/
def Obligations.NoEdgeEventDuringOrSoonAfterReset : Prop :=
  (∀ (s : State) c rest, s.inputs = .cycle c :: rest → c.rst = true →
    step s = .next ((State.initial s.params).setInputs rest) ∧ (s.cycleWord c).getLsbD 1 = false) ∧
  (∀ (s : State) (c : PortSample) (cs : List PortSample) (k : Nat) (w : OpWord), c.rst = true → (∀ x ∈ cs, x.rst = false) →
    1 ≤ s.params.syncStages → (State.cycleWords cs (s.edgeDetAfter c))[k]? = some w → w.getLsbD 1 = true →
    s.params.syncStages ≤ k)

/-- 00_scope.md R5: the FRONT-END level drives the CORE and nothing else. A run over sampled ports and the run over the
operation words that EDGE-DET and the ports gave in those cycles leave the same CORE state. -/
def Obligations.FrontEndRunRefinesCoreRun : Prop :=
  ∀ (cs : List PortSample) (s t : State) (rest : List Input),
    Host.Core.run Sys2Proof.core cs.length { s with inputs := cs.map Input.cycle ++ rest } = .next t →
    ∃ u : State, Host.Core.run Sys2Proof.core cs.length
        { s with inputs := (State.cycleWords cs s).map Input.word ++ rest } = .next u ∧
      u.coreView = t.coreView

/-! ### Reset -/

/-- 70_reset_and_hazards.md R202: the initial state of the model is the state RESET leaves, from whatever state. -/
def Obligations.InitialStateIsWhatResetLeaves : Prop :=
  (∀ s : State, exec .reset s = .next { State.initial s.params with inputs := s.inputs }) ∧
  State.reset = State.initial defaultParams ∧ exec .reset State.reset = .next State.reset

/-- The reset state field by field (10_state.md R32), with the model's own choices beside it: the default parameters
(log 2) and no input listed (log 7). -/
def Obligations.ResetStateFields : Prop :=
  State.reset.shift = 0x000 ∧ State.reset.count = 0 ∧ State.reset.ready = false ∧ State.reset.pend = false ∧
  State.reset.last = 0x00 ∧ State.reset.out = ⟨false, 0x00, .none, 0x00, false⟩ ∧
  State.reset.syncC = [true, true] ∧ State.reset.syncD = [true, true] ∧ State.reset.prevC = true ∧
  State.reset.params = defaultParams ∧ State.reset.inputs = []

/-- 70_reset_and_hazards.md R200: RESET from any state, its words, twice as once. -/
def Obligations.ResetEffect : Prop :=
  (∀ s : State, exec .reset s = .next
    { s with shift := 0x000, count := 0, ready := false, pend := false, last := 0x00,
             out := ⟨false, 0x00, .none, 0x00, false⟩,
             syncC := List.replicate s.params.syncStages true, syncD := List.replicate s.params.syncStages true,
             prevC := true }) ∧
  (∀ w : OpWord, w.getLsbD 3 = true → decodeWord w = .reset) ∧
  (∀ s t : State, exec .reset s = .next t → exec .reset t = .next t)

/-! ### NOP, EDGE, TAKE, TAKE_EDGE -/

/-- 40_framer.md R105: NOP zeroes OUT and changes nothing else, however many there are. -/
def Obligations.NopEffect : Prop :=
  (∀ s : State, exec .nop s = .next { s with out := ⟨false, 0x00, .none, 0x00, false⟩ }) ∧
  (∀ (n : Nat) (s : State), execAll (List.replicate (n + 1) .nop) s =
    .next { s with out := ⟨false, 0x00, .none, 0x00, false⟩ }) ∧
  (∀ w : OpWord, w &&& 0b1110 = 0b0000 → decodeWord w = .nop)

/-- 40_framer.md R104: EDGE drops the level while READY = 1 and in the start-bit hunt, and otherwise stores it at
SHIFT[COUNT], counts it, and sets READY at the eleventh. Everything but SHIFT, COUNT, READY and OUT stays. -/
def Obligations.EdgeEffect : Prop :=
  ∀ (d : Bool) (s : State),
    (s.ready = true → exec (.edge d) s = .next { s with out := Out.zero }) ∧
    (s.ready = false → s.params.parityCheck = true → s.count = 0 → d = true →
      exec (.edge d) s = .next { s with out := Out.zero }) ∧
    (s.ready = false → ¬(s.params.parityCheck = true ∧ s.count = 0 ∧ d = true) → s.count.val < 11 →
      ∃ t, exec (.edge d) s = .next t ∧
        t = { s with shift := t.shift, count := t.count, ready := t.ready, out := Out.zero } ∧
        (∀ i, t.shift.getLsbD i = if i = s.count.val then d else s.shift.getLsbD i) ∧
        t.count.val = s.count.val + 1 ∧ (t.ready = true ↔ s.count.val + 1 = 11)) ∧
    (∀ w : OpWord, w &&& 0b1110 = 0b0010 → decodeWord w = .edge (w.getLsbD 0))

/-- 40_framer.md R106: TAKE with nothing ready, with a frame that fails the check, and with a byte to hand over. -/
def Obligations.TakeEffect : Prop :=
  (∀ s : State,
    (s.ready = false → exec .take s = .next { s with out := ⟨false, 0x00, .none, 0x00, false⟩ }) ∧
    (s.ready = true → s.params.parityCheck = true → frameOk s.shift = false →
      exec .take s = .next { s with shift := 0, count := 0, ready := false, out := ⟨false, 0x00, .none, 0x00, true⟩ }) ∧
    (s.ready = true → ¬(s.params.parityCheck = true ∧ frameOk s.shift = false) →
      ∃ b e p' l', (∀ j, j < 8 → b.getLsbD j = s.shift.getLsbD (j + 1)) ∧ translateByte s.params s.pend s.last b = (e, p', l') ∧
        exec .take s = .next { s with shift := 0, count := 0, ready := false, pend := p', last := l',
                                      out := ⟨true, b, e.kind, e.char, false⟩ })) ∧
  (∀ w : OpWord, w &&& 0b1110 = 0b0100 → decodeWord w = .take) ∧
  KeyEvent.none.kind.code = 0b00 ∧ KeyEvent.commit.kind.code = 0b10 ∧ KeyEvent.backspace.kind.code = 0b11 ∧
  (∀ c, (KeyEvent.insert c).kind.code = 0b01 ∧ (KeyEvent.insert c).char = c) ∧
  KeyEvent.none.char = 0x00 ∧ KeyEvent.commit.char = 0x00 ∧ KeyEvent.backspace.char = 0x00

/-- 40_framer.md R110: TAKE_EDGE is TAKE, then EDGE on the state TAKE left, with TAKE's OUT; and its three corner cases
(the frame check off, or a start bit 0, in the first). -/
def Obligations.TakeEdgeEffect : Prop :=
  (∀ (d : Bool) (s : State), (s.count.val = 11 → s.ready = true) →
    ∃ s1 s2 : State, exec .take s = .next s1 ∧ exec (.edge d) s1 = .next s2 ∧
      exec (.takeEdge d) s = .next { s2 with out := s1.out }) ∧
  (∀ (d : Bool) (s : State), s.ready = true → (s.params.parityCheck = false ∨ d = false) →
    ∃ t, exec (.takeEdge d) s = .next t ∧ t.count = 1 ∧ t.ready = false ∧ t.shift = (if d then 1#11 else 0#11)) ∧
  (∀ (d : Bool) (s : State), s.ready = false → s.count.val = 10 →
    ∃ t, exec (.takeEdge d) s = .next t ∧ t.ready = true ∧ t.out = Out.zero) ∧
  (∀ (d : Bool) (s : State), s.ready = false → s.count.val < 10 → exec (.takeEdge d) s = exec (.edge d) s) ∧
  (∀ w : OpWord, w &&& 0b1110 = 0b0110 → decodeWord w = .takeEdge (w.getLsbD 0))

/-- The frames: what an operation leaves unchanged when it answers a next state. Nothing writes the parameters or the
LUT (20_memory.md R50, R64); only RESET writes EDGE-DET; only RESET, TAKE and TAKE_EDGE write PEND and LAST
(60_exceptions.md R190), and the last two only when READY was 1; only NOP leaves all of SHIFT, COUNT and READY always. -/
def Obligations.OperationsLeaveTheRestUnchanged : Prop :=
  ∀ (i : Instr) (s t : State), exec i s = .next t →
    t.params = s.params ∧ t.inputs = s.inputs ∧ (∀ a, lutRead t.params.lut a = lutRead s.params.lut a) ∧
    (i ≠ .reset → t.syncC = s.syncC ∧ t.syncD = s.syncD ∧ t.prevC = s.prevC) ∧
    (i = .nop ∨ i = .edge false ∨ i = .edge true → t.pend = s.pend ∧ t.last = s.last) ∧
    (i = .nop → t.shift = s.shift ∧ t.count = s.count ∧ t.ready = s.ready) ∧
    (i ≠ .reset → s.ready = false → t.pend = s.pend ∧ t.last = s.last ∧ t.out = Out.zero) ∧
    (i = .take → s.ready = false → t.shift = s.shift ∧ t.count = s.count ∧ t.ready = s.ready) ∧
    (s.ready = false → ∀ d, i = .edge d ∨ i = .takeEdge d →
      ∀ k, k ≠ s.count.val → t.shift.getLsbD k = s.shift.getLsbD k)

/-- Where an operation stops in the model: only an EDGE or TAKE_EDGE whose level would be stored with COUNT = 11 and
READY = 0, a state outside 10_state.md R26 (DESIGN CHOICE, log 6). Nothing is refused. -/
def Obligations.OnlyOverrunStops : Prop :=
  ∀ (i : Instr) (s : State),
    (exec i s = .fault .accumulatorOverrun ↔
      (∃ d, i = .edge d ∨ i = .takeEdge d) ∧ s.ready = false ∧ s.count.val = 11) ∧
    (exec i s = .fault .accumulatorOverrun ∨ ∃ t, exec i s = .next t)

/-- COUNT is kept, counted up by one, cleared, or cleared and counted up (40_framer.md R113 (a) and (b)); it never wraps. -/
def Obligations.CounterNeverWraps : Prop :=
  ∀ (i : Instr) (s t : State), exec i s = .next t →
    t.count.val = s.count.val ∨ (s.count.val ≤ 10 ∧ t.count.val = s.count.val + 1) ∨ t.count.val = 0 ∨
    (s.ready = true ∧ t.count.val = 1)

/-- 10_state.md R25: READY becomes 1 only by the EDGE (or the EDGE half of a TAKE_EDGE) that makes COUNT reach 11, and 0 only
by a TAKE, a TAKE_EDGE or RESET, each of which does clear it; an EDGE with READY = 1 stores nothing; the reset value
is 0. -/
def Obligations.ReadyIsSetByTheEleventhLevelOnly : Prop :=
  (∀ (i : Instr) (s t : State), exec i s = .next t →
    (s.ready = false → t.ready = true →
      (∃ d, i = .edge d ∨ i = .takeEdge d) ∧ s.count.val = 10 ∧ t.count.val = 11) ∧
    (s.ready = true → (t.ready = false ↔ i = .reset ∨ i = .take ∨ ∃ d, i = .takeEdge d))) ∧
  (∀ (d : Bool) (s : State), s.ready = false → s.count.val = 10 →
    ∃ t, exec (.edge d) s = .next t ∧ t.count.val = 11 ∧ t.ready = true) ∧
  (∀ (d : Bool) (s : State), s.ready = true →
    ∃ t, exec (.edge d) s = .next t ∧ t.shift = s.shift ∧ t.count = s.count ∧ t.ready = true) ∧
  State.reset.ready = false

/-- 70_reset_and_hazards.md R215: OUT is zero after every step that is no TAKE or TAKE_EDGE with a frame to take. -/
def Obligations.OutIsValidForOneStep : Prop :=
  ∀ (i : Instr) (s t : State), exec i s = .next t →
    (i ≠ .take ∧ (∀ d, i ≠ .takeEdge d)) ∨ s.ready = false → t.out = Out.zero

/-! ### The translator and the LUT -/

/-- 41_translator.md R141: the branches in order, and branch D's event. -/
def Obligations.TranslateBranches : Prop :=
  ∀ (p : Params) (pend : Bool) (last b : Byte),
    (b = 0xF0 → translateByte p pend last b = (.none, true, last)) ∧
    (b ≠ 0xF0 → pend = true → translateByte p pend last b = (.none, false, 0x00)) ∧
    (b ≠ 0xF0 → pend = false → b = last → translateByte p pend last b = (.none, false, last)) ∧
    (b ≠ 0xF0 → pend = false → b ≠ last → ∃ e, translateByte p pend last b = (e, false, b) ∧
      (lookupLut p b = some p.enterSentinel → e = .commit) ∧
      (lookupLut p b ≠ some p.enterSentinel → b = p.backspaceCode → e = .backspace) ∧
      (lookupLut p b ≠ some p.enterSentinel → b ≠ p.backspaceCode →
        (∀ c, lookupLut p b = some c → isPrintable p c = true → e = .insert c) ∧
        ((∀ c, lookupLut p b = some c → isPrintable p c = false) → e = .none)))

/-- 20_memory.md R51: the lookup is total and bounds-checked, and an unassigned entry gives no event. -/
def Obligations.LookupIsBoundsChecked : Prop :=
  ∀ (p : Params) (b : Byte),
    (b.toNat < p.tableLen → lookupLut p b = some (lutRead p.lut b.toNat)) ∧
    (p.tableLen ≤ b.toNat → lookupLut p b = none) ∧
    (∀ c, lookupLut p b = some c → c ≠ p.enterSentinel → isPrintable p c = false → b ≠ p.backspaceCode →
      acceptEvent p b = .none)

/-- 41_translator.md R150: the default table, entry 16·r + c in row r, column c, TABLE_LEN = 128, 52 entries assigned. -/
def Obligations.DefaultTableEntries : Prop :=
  defaultParams.tableLen = 128 ∧ defaultParams.lut.length = 52 ∧
  (List.range 128).map (lutRead defaultParams.lut) =
    [0x00, 0x00, 0x00, 0x00, 0x00, 0x00, 0x00, 0x00, 0x00, 0x00, 0x00, 0x00, 0x00, 0x09, 0x60, 0x00] ++
    [0x00, 0x00, 0x00, 0x00, 0x00, 0x71, 0x31, 0x00, 0x00, 0x00, 0x7A, 0x73, 0x61, 0x77, 0x32, 0x00] ++
    [0x00, 0x63, 0x78, 0x64, 0x65, 0x34, 0x33, 0x00, 0x00, 0x20, 0x76, 0x66, 0x74, 0x72, 0x35, 0x00] ++
    [0x00, 0x6E, 0x62, 0x68, 0x67, 0x79, 0x36, 0x00, 0x00, 0x00, 0x6D, 0x6A, 0x75, 0x37, 0x38, 0x00] ++
    [0x00, 0x2C, 0x6B, 0x69, 0x6F, 0x30, 0x39, 0x00, 0x00, 0x2E, 0x2F, 0x6C, 0x3B, 0x70, 0x2D, 0x00] ++
    [0x00, 0x00, 0x27, 0x00, 0x5B, 0x3D, 0x00, 0x00, 0x00, 0x00, 0x0D, 0x5D, 0x00, 0x5C, 0x00, 0x00] ++
    [0x00, 0x00, 0x00, 0x00, 0x00, 0x00, 0x08, 0x00, 0x00, 0x00, 0x00, 0x00, 0x00, 0x00, 0x00, 0x00] ++
    [0x00, 0x00, 0x00, 0x00, 0x00, 0x00, 0x1B, 0x00, 0x00, 0x00, 0x00, 0x00, 0x00, 0x00, 0x00, 0x00]

/-- 41_translator.md R142: the release prefix sets PEND, leaves LAST and gives no event, whatever PEND and LAST are; it is
never stored in LAST. -/
def Obligations.ReleasePrefixSetsPend : Prop :=
  (∀ (p : Params) (pend : Bool) (last : Byte), translateByte p pend last 0xF0 = (.none, true, last)) ∧
  (∀ s : State, s.ready = true → s.params.parityCheck = false → s.shift.extractLsb' 1 8 = 0xF0 →
    exec .take s = .next { s with shift := 0, count := 0, ready := false, pend := true,
                                  out := ⟨true, 0xF0, .none, 0x00, false⟩ }) ∧
  (∀ (i : Instr) (s t : State), exec i s = .next t → s.last ≠ 0xF0 → t.last ≠ 0xF0)

/-- 41_translator.md R143: any byte but 0xF0 while PEND = 1 clears PEND and LAST and gives no event, whatever LAST is and
whatever the LUT holds. -/
def Obligations.KeyUpClearsLast : Prop :=
  (∀ (p : Params) (last b : Byte), b ≠ 0xF0 → translateByte p true last b = (.none, false, 0x00)) ∧
  (∀ s : State, s.ready = true → s.params.parityCheck = false → s.pend = true → s.shift.extractLsb' 1 8 ≠ 0xF0 →
    exec .take s = .next { s with shift := 0, count := 0, ready := false, pend := false, last := 0x00,
                                  out := ⟨true, s.shift.extractLsb' 1 8, .none, 0x00, false⟩ })

/-- Repeat suppression over any number of repeats (41_translator.md R144): the first of equal bytes is accepted, every
later one gives nothing, and LAST stays. -/
def Obligations.RepeatsAreSuppressed : Prop :=
  ∀ (p : Params) (last b : Byte) (n : Nat), b ≠ 0xF0 →
    (b ≠ last → translateAll p false last (List.replicate (n + 1) b) =
      (acceptEvent p b :: List.replicate n .none, false, b)) ∧
    translateAll p false b (List.replicate n b) = (List.replicate n .none, false, b)

/-- 41_translator.md R145: an accepted byte is stored in LAST whether or not it is mapped; the backspace test reads the
byte, also beyond the table; Enter is recognised only by the entry. -/
def Obligations.AcceptedByteIsStored : Prop :=
  ∀ (p : Params) (last b : Byte), b ≠ 0xF0 → b ≠ last →
    translateByte p false last b = (acceptEvent p b, false, b) ∧
    (p.tableLen ≤ b.toNat → b = p.backspaceCode → acceptEvent p b = .backspace) ∧
    (acceptEvent p b = .commit ↔ lookupLut p b = some p.enterSentinel)

/-- 41_translator.md R146: the byte 0x00 is suppressed while LAST is none, and otherwise makes the translator forget the
last key: with the default LUT it gives no event, and the byte before it is then accepted again. -/
def Obligations.ZeroByteForgetsTheLastKey : Prop :=
  (∀ p : Params, translateByte p false 0x00 0x00 = (.none, false, 0x00)) ∧
  (∀ (p : Params) (last : Byte), last ≠ 0x00 → translateByte p false last 0x00 = (acceptEvent p 0x00, false, 0x00)) ∧
  acceptEvent defaultParams 0x00 = .none ∧
  (∀ (p : Params) (x : Byte), x ≠ 0x00 → x ≠ 0xF0 →
    translateAll p false 0x00 [x, 0x00, x] = ([acceptEvent p x, acceptEvent p 0x00, acceptEvent p x], false, x)) ∧
  translateAll defaultParams false 0x00 [0x1C, 0x00, 0x1C] = ([.insert 0x61, .none, .insert 0x61], false, 0x1C)

/-- 41_translator.md R147: a byte at or above TABLE_LEN is stored in LAST and gives no event unless it is BACKSPACE_CODE;
its repeat is suppressed. -/
def Obligations.BytesOutsideTheTable : Prop :=
  (∀ (p : Params) (last b : Byte), p.tableLen ≤ b.toNat → b ≠ 0xF0 → b ≠ last →
    translateAll p false last [b, b] = ([if b = p.backspaceCode then .backspace else .none, .none], false, b)) ∧
  (∀ b : Byte, 0x80 ≤ b → b ≠ 0xF0 → b ≠ 0x00 ∧ translateByte defaultParams false 0x00 b = (.none, false, b))

/-- 41_translator.md R148: 0xE0 is an ordinary byte, and the byte after it is translated as an ordinary make code; the
extended Enter gives NONE then COMMIT, its release nothing. -/
def Obligations.ExtendedPrefixIsOrdinary : Prop :=
  (∀ (p : Params) (last : Byte), last ≠ 0xE0 → translateByte p false last 0xE0 = (acceptEvent p 0xE0, false, 0xE0)) ∧
  acceptEvent defaultParams 0xE0 = .none ∧
  (∀ (p : Params) (b : Byte), b ≠ 0xF0 → b ≠ 0xE0 → translateByte p false 0xE0 b = (acceptEvent p b, false, b)) ∧
  translateAll defaultParams false 0x00 [0xE0, 0x5A] = ([.none, .commit], false, 0x5A) ∧
  translateAll defaultParams false 0x5A [0xE0, 0xF0, 0x5A] = ([.none, .none, .none], false, 0x00)

/-- 41_translator.md R149: a key still held is accepted again after another key's release; modifier keys are bytes with no
mapping that occupy LAST. -/
def Obligations.OverlappingKeysAreAcceptedAgain : Prop :=
  translateAll defaultParams false 0x00 [0x1C, 0x32, 0xF0, 0x1C, 0x32] =
    ([.insert 0x61, .insert 0x62, .none, .none, .insert 0x62], false, 0x32) ∧
  (∀ (p : Params) (a b : Byte), a ≠ 0xF0 → b ≠ 0xF0 → a ≠ b → a ≠ 0x00 → b ≠ 0x00 →
    translateAll p false 0x00 [a, b, 0xF0, a, b] =
      ([acceptEvent p a, acceptEvent p b, .none, .none, acceptEvent p b], false, b)) ∧
  (∀ m : Byte, m ∈ ([0x12, 0x59, 0x14] : List Byte) → ∀ last : Byte, last ≠ m →
    translateByte defaultParams false last m = (.none, false, m))

/-- 41_translator.md R151 and R152: COMMIT comes from the sentinel entry alone and wins; BACKSPACE comes from the code alone,
whatever other entry stands there. With the defaults these are 0x5A and 0x66. -/
def Obligations.EnterAndBackspaceMechanisms : Prop :=
  (∀ (p : Params) (b : Byte), acceptEvent p b = .commit ↔ lookupLut p b = some p.enterSentinel) ∧
  (∀ (p : Params) (b : Byte), acceptEvent p b = .backspace ↔
    b = p.backspaceCode ∧ lookupLut p b ≠ some p.enterSentinel) ∧
  (∀ b : Byte, acceptEvent defaultParams b = .commit ↔ b = 0x5A) ∧
  (∀ b : Byte, acceptEvent defaultParams b = .backspace ↔ b = 0x66) ∧
  defaultParams.enterSentinel = 0x0D ∧ defaultParams.backspaceCode = 0x66 ∧
  lookupLut defaultParams 0x66 = some 0x08 ∧ isPrintable defaultParams 0x08 = false

/-- 41_translator.md R153: the default printable range, and "no mapping" entries give no event under any allowed
parameters. -/
def Obligations.PrintableRange : Prop :=
  (∀ c : Byte, isPrintable defaultParams c = true ↔ 0x20 ≤ c.toNat ∧ c.toNat ≤ 0x7E) ∧
  (∀ (p : Params) (b : Byte), p.Wf → lookupLut p b = some 0x00 → p.enterSentinel ≠ 0x00 → b ≠ p.backspaceCode →
    acceptEvent p b = .none)

/-- 41_translator.md R154: the pair of release prefix and X, with its exception X = 0xF0 (90_conflicts.md C4). -/
def Obligations.ReleasePairClearsLast : Prop :=
  ∀ (p : Params) (last x : Byte),
    (x ≠ 0xF0 → translateAll p false last [0xF0, x] = ([.none, .none], false, 0x00)) ∧
    translateAll p false last [0xF0, 0xF0] = ([.none, .none], true, last) ∧
    (x ≠ 0xF0 → translateAll p false last [0xF0, 0xF0, x] = ([.none, .none, .none], false, 0x00))

/-- 41_translator.md R155: the same byte twice yields an event at most for the first. -/
def Obligations.SameByteTwice : Prop :=
  ∀ (p : Params) (last x : Byte), x ≠ 0xF0 →
    (last ≠ x → translateAll p false last [x, x] = ([acceptEvent p x, .none], false, x)) ∧
    translateAll p false x [x, x] = ([.none, .none], false, x)

/-- 10_state.md R27 and R28: when and how PEND and LAST are written, operation by operation; a byte 0x00 compares equal to
"none". -/
def Obligations.TranslatorRegistersAreWrittenByTakes : Prop :=
  (∀ (i : Instr) (s t : State), exec i s = .next t →
    (i = .reset → t.pend = false ∧ t.last = 0x00) ∧
    (i = .nop ∨ i = .edge false ∨ i = .edge true → t.pend = s.pend ∧ t.last = s.last) ∧
    (i = .take ∨ i = .takeEdge false ∨ i = .takeEdge true →
      (s.ready = false ∨ (s.params.parityCheck = true ∧ frameOk s.shift = false) → t.pend = s.pend ∧ t.last = s.last) ∧
      (s.ready = true → (s.params.parityCheck = true → frameOk s.shift = true) →
        (frameByte s.shift = 0xF0 → t.pend = true ∧ t.last = s.last) ∧
        (frameByte s.shift ≠ 0xF0 → s.pend = true → t.pend = false ∧ t.last = 0x00) ∧
        (frameByte s.shift ≠ 0xF0 → s.pend = false → t.pend = false ∧ t.last = frameByte s.shift)))) ∧
  (∀ p : Params, translateByte p false 0x00 0x00 = (.none, false, 0x00)) ∧
  State.reset.pend = false ∧ State.reset.last = 0x00

/-! ### The frame check -/

/-- 40_framer.md R103: start bit 0, stop bit 1, odd parity, in the rule's words and as a count of ones. -/
def Obligations.FrameCheckMeaning : Prop :=
  ∀ f : Frame,
    (frameOk f = true ↔ f.getLsbD 0 = false ∧ f.getLsbD 10 = true ∧
      (f.getLsbD 1 ^^ f.getLsbD 2 ^^ f.getLsbD 3 ^^ f.getLsbD 4 ^^ f.getLsbD 5 ^^ f.getLsbD 6 ^^ f.getLsbD 7 ^^
        f.getLsbD 8 ^^ f.getLsbD 9) = true) ∧
    (frameOk f = true ↔ f.getLsbD 0 = false ∧ f.getLsbD 10 = true ∧
      ((List.finRange 9).filter fun j => f.getLsbD (j.val + 1)).length % 2 = 1)

/-- 40_framer.md R112: with PARITY_CHECK, a bad frame is discarded by TAKE with FERR and no byte, the translator untouched,
and while COUNT = 0 a level 1 is dropped, so the next frame starts at a 0. -/
def Obligations.ParityCheckDiscardsAndHunts : Prop :=
  ∀ s : State, s.params.parityCheck = true →
    (s.ready = true → frameOk s.shift = false →
      exec .take s = .next { s with shift := 0, count := 0, ready := false, out := ⟨false, 0x00, .none, 0x00, true⟩ }) ∧
    (s.count = 0 → exec (.edge true) s = .next { s with out := Out.zero }) ∧
    (∀ n, s.count = 0 → execAll (List.replicate (n + 1) (.edge true)) s = .next { s with out := Out.zero }) ∧
    (s.count = 0 → s.ready = false → ∃ t, exec (.edge false) s = .next t ∧ t.count = 1 ∧ t.shift.getLsbD 0 = false)

/-! ### The framer over runs -/

/-- 40_framer.md R107: up to eleven EDGEs from COUNT = 0, with only NOPs between them. -/
def Obligations.ElevenEdgesMakeOneFrame : Prop :=
  ∀ (is : List Instr) (s : State), s.count = 0 → s.ready = false → s.params.parityCheck = false →
    (∀ i ∈ is, i = .nop ∨ ∃ d, i = .edge d) → (edgeLevels is).length ≤ 11 →
    ∃ t, execAll is s = .next t ∧ t.count.val = (edgeLevels is).length ∧
      (t.ready = true ↔ (edgeLevels is).length = 11) ∧
      (∀ k, k < (edgeLevels is).length → (edgeLevels is)[k]? = some (t.shift.getLsbD k)) ∧
      t.pend = s.pend ∧ t.last = s.last ∧
      ((edgeLevels is).length < 11 → exec .take t = .next { t with out := Out.zero }) ∧
      ((edgeLevels is).length = 11 → ∃ u, exec .take t = .next u ∧ u.out.bv = true ∧
        (∀ j, j < 8 → (edgeLevels is)[j + 1]? = some (u.out.byte.getLsbD j)) ∧
        u.ready = false ∧ u.count = 0 ∧ exec .take u = .next { u with out := Out.zero })

/-- 40_framer.md R111: with a frame ready, j levels of what follows are dropped before the TAKE; from then on every byte is
read j levels off, for as long as each frame is taken in time. With j = 11 a whole frame is lost and the alignment
kept. -/
def Obligations.DroppedLevelsMisalignForGood : Prop :=
  ∀ (s : State) (wire : List Bool) (j n : Nat), s.ready = true → s.params.parityCheck = false →
    j ≤ 11 → j + 11 * n ≤ wire.length →
    takenBytes (execOuts
      ((wire.take j).map Instr.edge ++ [.take] ++
        (List.range n).flatMap fun k => (((wire.drop (j + 11 * k)).take 11).map Instr.edge ++ [.take])) s) =
      frameByte s.shift :: (List.range n).map fun k => byteOf ((wire.drop (j + 11 * k)).take 11)

/-- 20_memory.md R59: the framer is a single-slot mailbox of levels. Over any run of operations the bytes it reports are
those the mailbox hands out: in the order their frames completed, each at most once, a complete frame never overwritten
and the levels that arrive while it waits lost. -/
def Obligations.FramerIsASingleSlotMailbox : Prop :=
  ∀ (is : List Instr) (s : State) (levels : List Bool), s.params.parityCheck = false → s.Holds levels →
    levels.length ≤ 11 →
    takenBytes (execOuts is s) = boxRun is levels ∧ (execOuts is s).length = is.length ∧
    ∃ t, execAll is s = .next t ∧ t.Holds (is.foldl (fun held i => (boxStep i held).2) levels)

/-- 20_memory.md R60: while READY = 1 nothing but TAKE and RESET changes SHIFT, so the offered byte is stable over any run
of other operations. -/
def Obligations.OfferedByteIsStable : Prop :=
  ∀ (is : List Instr) (s : State), s.ready = true → (∀ i ∈ is, i = .nop ∨ ∃ d, i = .edge d) →
    ∃ t, execAll is s = .next t ∧ t.shift = s.shift ∧ t.ready = true ∧ t.count = s.count ∧
      t.ports.frameByte = s.ports.frameByte ∧ t.ports.ready = true

/-- A TAKE that empties the mailbox makes every later TAKE answer nothing until eleven more levels came
(20_memory.md R57), with the frame check off or on. -/
def Obligations.NothingMoreToTakeBeforeElevenEdges : Prop :=
  ∀ (is : List Instr) (s t : State), s.ready = true → exec .take s = .next t → (edgeLevels is).length < 11 →
    (∃ u, execAll is t = .next u) ∧ takenBytes (execOuts is t) = [] ∧ ∀ o ∈ execOuts is t, o.ferr = false

/-- The key events of a run are the translator's (41_translator.md R140, R141) over the bytes taken, in order,
and PEND and LAST end as the translator leaves them (the frame check off, no RESET among the operations). -/
def Obligations.KeyEventsAreTheTranslatorsOverTakenBytes : Prop :=
  ∀ (is : List Instr) (s : State), s.params.parityCheck = false → s.AccumulatorOk → (∀ i ∈ is, i ≠ .reset) →
    keyEvents (execOuts is s) =
      (translateAll s.params s.pend s.last (takenBytes (execOuts is s))).1.map (fun e => (e.kind, e.char)) ∧
    ∃ t, execAll is s = .next t ∧
      (t.pend, t.last) = (translateAll s.params s.pend s.last (takenBytes (execOuts is s))).2

/-- Typing (the source's end-to-end property, 95_test_vectors.md S5): from an idle block, each key pressed and released
gives its own event once and nothing for its release, under any parameters and with the frame check off or on; the block
is idle again. -/
def Obligations.TypedKeysComeOutInOrder : Prop :=
  ∀ (keys : List Byte) (s : State), s.AccumulatorOk → s.count = 0 → s.pend = false → s.last = 0x00 →
    (∀ b ∈ keys, b ≠ 0xF0 ∧ b ≠ 0x00) →
    keyEvents (execOuts (keys.flatMap fun b => (Pseudo.key b).expand) s) =
      (keys.flatMap fun b => [((acceptEvent s.params b).kind, (acceptEvent s.params b).char), (.none, 0x00), (.none, 0x00)]) ∧
    ∃ t, execAll (keys.flatMap fun b => (Pseudo.key b).expand) s = .next t ∧
      t = { s with out := t.out } ∧ t.ready = false ∧ t.shift = 0

/-- With PARITY_CHECK = false no bit of a frame other than bits 1 to 8 affects any other state or any output (00_scope.md
section 3): two states that differ only there, given operations that differ at most in levels stored there, stay so
and show the same ports. -/
def Obligations.FramingBitsAffectNothing : Prop :=
  ∀ (s t s' : State) (i j : Instr), s.params.parityCheck = false → s.AccumulatorOk → SameButFraming s t →
    SameOperation s i j → exec i s = .next s' →
    t.ports = s.ports ∧ ∃ t', exec j t = .next t' ∧ SameButFraming s' t' ∧ t'.ports = s'.ports

/-! ### Invariants -/

/-- The invariant holds in every state a run may start from, the reset state among them. -/
def Obligations.InvariantHoldsAtReset : Prop :=
  State.reset.Inv ∧ ∀ (p : Params) (inputs : List Input), p.Wf → ((State.initial p).setInputs inputs).Inv

/-- Every step keeps the invariant, from every state that has it: the parameters allowed and the LUT in canonical form, READY
exactly with COUNT = 11 and no bit of SHIFT beyond COUNT (10_state.md R26), OUT's fields consistent (R29), LAST never the
release prefix, the synchronisers SYNC_STAGES long (R30). -/
def Obligations.StepKeepsTheInvariant : Prop :=
  ∀ s t : State, s.Inv → step s = .next t → t.Inv

/-- 10_state.md R26 on every reachable state. -/
def Obligations.AccumulatorInvariantsOnEveryRun : Prop :=
  ∀ s : State, Reachable s →
    s.count.val ≤ 11 ∧ (s.ready = true ↔ s.count.val = 11) ∧
    ∀ i, s.count.val ≤ i → i ≤ 10 → s.shift.getLsbD i = false

/-- 10_state.md R29: OUT is OUT_ZERO after EDGE, NOP and RESET, and the two combinations never occur in a run; FERR is 0
with PARITY_CHECK = false; the codes of KIND. -/
def Obligations.OutNeverHoldsAnImpossibleCombination : Prop :=
  (∀ (i : Instr) (s t : State), i = .nop ∨ i = .reset ∨ i = .edge false ∨ i = .edge true → exec i s = .next t →
    t.out = ⟨false, 0x00, .none, 0x00, false⟩) ∧
  (∀ s : State, Reachable s →
    (s.out.bv = false → s.out.kind.code = 0b00 ∧ s.out.byte = 0x00) ∧
    (s.out.kind.code ≠ 0b01 → s.out.char = 0x00) ∧
    (s.params.parityCheck = false → s.out.ferr = false)) ∧
  Kind.none.code = 0b00 ∧ Kind.insert.code = 0b01 ∧ Kind.commit.code = 0b10 ∧ Kind.backspace.code = 0b11 ∧
  State.reset.out = ⟨false, 0x00, .none, 0x00, false⟩

/-- 60_exceptions.md R180: no fault and no refusal on a well-formed state; every operation completes in one step; and the
machine stays live for any number of steps, whatever its inputs. -/
def Obligations.NoStopOnAWellFormedState : Prop :=
  (∀ (i : Instr) (s : State), s.AccumulatorOk → ∃ t, exec i s = .next t) ∧
  (∀ s : State, s.AccumulatorOk → ∃ t, step s = .next t) ∧
  (∀ s : State, Reachable s → (∀ i, ∃ t, exec i s = .next t) ∧
    ∀ n, ∃ t, Host.Core.run Sys2Proof.core n s = .next t)

/-! ### The ports -/

/-- The output ports (10_state.md R31): `ready` and `frame_byte` show the accumulator, the others OUT; `frame_byte` bit j
is SHIFT bit j + 1. -/
def Obligations.OutputPortsShowTheState : Prop :=
  ∀ s : State, s.ports.ready = s.ready ∧
    (∀ j, j < 8 → s.ports.frameByte.getLsbD j = s.shift.getLsbD (j + 1)) ∧
    s.ports.outBv = s.out.bv ∧ s.ports.outByte = s.out.byte ∧ s.ports.keyKind = s.out.kind.code ∧
    s.ports.keyChar = s.out.char ∧ s.ports.frameErr = s.out.ferr
end

