-- ==== Sys2Proof/Laws/Bits.lean ====
section
/-! SUPPORT. What the bit-field helpers do, one lemma each: setBit writes one bit, frameByte reads bits 1 to 8, nextCount counts on 0 to
10, opWord puts its fields at their places. -/

namespace Sys2Proof.Machine

/-- `SHIFT[k] <- d` changes bit k and no other (40_framer.md R113 (c)). -/
theorem getLsbD_setBit (f : Frame) (k : Nat) (d : Bool) (i : Nat) (hk : k < 11) :
    (setBit f k d).getLsbD i = if i = k then d else f.getLsbD i := by
  unfold setBit
  by_cases hi : i < 11
  · rcases lt_trichotomy i k with h | h | h
    · cases d <;> simp [hi, h, h.ne]
    · subst h; cases d <;> simp [hi]
    · have h0 : i - k ≠ 0 := by omega
      cases d <;> simp [hi, h.ne', h0]
  · have hf : f.getLsbD i = false := BitVec.getLsbD_of_ge f i (by omega)
    have hne : i ≠ k := by omega
    cases d <;> simp [hi, hf, hne]

/-- Bit j of the scan byte is bit j + 1 of the frame (40_framer.md R102). -/
theorem getLsbD_frameByte (f : Frame) (j : Nat) (hj : j < 8) : (frameByte f).getLsbD j = f.getLsbD (j + 1) := by
  simp [frameByte, hj, Nat.add_comm]

@[simp] theorem nextCount_of_lt (c : Count) (h : c.val < 11) : nextCount c = some ⟨c.val + 1, by omega⟩ := by
  have h' : c.val + 1 < 12 := by omega
  simp [nextCount, h']

theorem nextCount_eq_none (c : Count) : nextCount c = none ↔ c.val = 11 := by
  have := c.isLt
  simp only [nextCount]
  split <;> simp <;> omega

@[simp] theorem readyAt_eq_true (c : Count) : readyAt c = true ↔ c.val = 11 := by
  simp [readyAt, frameBits]

theorem opWord_rst (r t e d : Bool) : (opWord r t e d).getLsbD 3 = r := by
  cases r <;> cases t <;> cases e <;> cases d <;> rfl

theorem opWord_tk (r t e d : Bool) : (opWord r t e d).getLsbD 2 = t := by
  cases r <;> cases t <;> cases e <;> cases d <;> rfl

theorem opWord_eg (r t e d : Bool) : (opWord r t e d).getLsbD 1 = e := by
  cases r <;> cases t <;> cases e <;> cases d <;> rfl

theorem opWord_d (r t e d : Bool) : (opWord r t e d).getLsbD 0 = d := by
  cases r <;> cases t <;> cases e <;> cases d <;> rfl

/-! The same as simp reads a bit. -/

@[simp] theorem opWord_getElem_three (r t e d : Bool) : (opWord r t e d)[3] = r := opWord_rst r t e d

@[simp] theorem opWord_getElem_two (r t e d : Bool) : (opWord r t e d)[2] = t := opWord_tk r t e d

@[simp] theorem opWord_getElem_one (r t e d : Bool) : (opWord r t e d)[1] = e := opWord_eg r t e d

@[simp] theorem opWord_getElem_zero (r t e d : Bool) : (opWord r t e d)[0] = d := opWord_d r t e d

end Sys2Proof.Machine
end

