-- ==== Sys2Proof/Laws/Lut.lean ====
section
/-! SUPPORT. The LUT's canonical form: equal contents are equal lists, every table has one, and the default has it. IsPrintable as
ranges can say any predicate on bytes. -/

namespace Sys2Proof.Machine

@[simp] theorem lutRead_nil (a : Nat) : lutRead [] a = unlistedEntry := rfl

theorem lutRead_cons (c : Host.Cell) (rest : List Host.Cell) (a : Nat) :
    lutRead (c :: rest) a = if a = c.1 then c.2 else lutRead rest a := by
  obtain ⟨a', b⟩ := c
  rfl

/-- An index below every listed one reads as unlisted. -/
theorem lutRead_of_forall_lt (lut : List Host.Cell) (a : Nat) (h : ∀ c ∈ lut, a < c.1) :
    lutRead lut a = unlistedEntry := by
  induction lut with
  | nil => rfl
  | cons c rest ih =>
    have hc := h c (by simp)
    rw [lutRead_cons, if_neg (by omega)]
    exact ih fun x hx => h x (by simp [hx])

/-- A wider table admits the same cells. -/
theorem LutWf.mono {m n : Nat} {lut : List Host.Cell} (h : LutWf m lut) (hmn : m ≤ n) : LutWf n lut :=
  ⟨h.1, fun c hc => ⟨lt_of_lt_of_le (h.2 c hc).1 hmn, (h.2 c hc).2⟩⟩

theorem LutWf.tail {n : Nat} {c : Host.Cell} {rest : List Host.Cell} (h : LutWf n (c :: rest)) : LutWf n rest :=
  ⟨(List.pairwise_cons.mp h.1).2, fun x hx => h.2 x (by simp [hx])⟩

/-- Two LUTs in canonical form that read the same everywhere are the same list. -/
theorem lut_ext {n : Nat} : ∀ {l m : List Host.Cell}, LutWf n l → LutWf n m → (∀ a, lutRead l a = lutRead m a) → l = m
  | [], [], _, _, _ => rfl
  | [], (a, b) :: m, _, hm, h => by
    have := h a
    rw [lutRead_cons, if_pos rfl] at this
    exact absurd this.symm (hm.2 (a, b) (by simp)).2
  | (a, b) :: l, [], hl, _, h => by
    have := h a
    rw [lutRead_cons, if_pos rfl] at this
    exact absurd this (hl.2 (a, b) (by simp)).2
  | (a, b) :: l, (a', b') :: m, hl, hm, h => by
    have below : ∀ x ∈ l, a < x.1 := fun x hx => (List.pairwise_cons.mp hl.1).1 x hx
    have below' : ∀ x ∈ m, a' < x.1 := fun x hx => (List.pairwise_cons.mp hm.1).1 x hx
    have hab : a = a' := by
      rcases lt_trichotomy a a' with hlt | heq | hgt
      · have := h a
        rw [lutRead_cons, if_pos rfl, lutRead_cons, if_neg (by simpa using hlt.ne),
          lutRead_of_forall_lt m a fun x hx => lt_trans hlt (below' x hx)] at this
        exact absurd this (hl.2 (a, b) (by simp)).2
      · exact heq
      · have := h a'
        rw [lutRead_cons, if_neg (by simpa using hgt.ne), lutRead_cons, if_pos rfl,
          lutRead_of_forall_lt l a' fun x hx => lt_trans hgt (below x hx)] at this
        exact absurd this.symm (hm.2 (a', b') (by simp)).2
    subst hab
    have hb : b = b' := by simpa [lutRead_cons] using h a
    subst hb
    have htail : l = m := lut_ext hl.tail hm.tail fun x => by
      by_cases hx : x = a
      · subst hx
        rw [lutRead_of_forall_lt l x below, lutRead_of_forall_lt m x below']
      · simpa [lutRead_cons, hx] using h x
    rw [htail]

/-- The cells of a table given as a function, from index k on for n indexes. -/
def cellsFrom (f : Nat → Byte) : Nat → Nat → List Host.Cell
  | _, 0 => []
  | k, n + 1 => if f k = unlistedEntry then cellsFrom f (k + 1) n else (k, f k) :: cellsFrom f (k + 1) n

theorem cellsFrom_bounds (f : Nat → Byte) (k n : Nat) :
    ∀ c ∈ cellsFrom f k n, k ≤ c.1 ∧ c.1 < k + n ∧ c.2 ≠ unlistedEntry := by
  induction n generalizing k with
  | zero => simp [cellsFrom]
  | succ n ih =>
    intro c hc
    simp only [cellsFrom] at hc
    split at hc
    · have := ih (k + 1) c hc
      exact ⟨by omega, by omega, this.2.2⟩
    · rcases List.mem_cons.mp hc with rfl | hc
      · exact ⟨le_rfl, by simp, by assumption⟩
      · have := ih (k + 1) c hc
        exact ⟨by omega, by omega, this.2.2⟩

/-- Every table of n bytes has a canonical form: no contents of 00_scope.md R7 are left out. -/
theorem exists_lut (f : Nat → Byte) (n : Nat) : ∃ lut, LutWf n lut ∧ ∀ a < n, lutRead lut a = f a := by
  refine ⟨cellsFrom f 0 n, ⟨?_, fun c hc => ?_⟩, fun a ha => ?_⟩
  · suffices ∀ k, (cellsFrom f k n).Pairwise fun x y => x.1 < y.1 from this 0
    induction n with
    | zero => simp [cellsFrom]
    | succ n ih =>
      intro k
      simp only [cellsFrom]
      split
      · exact ih (k + 1)
      · refine List.pairwise_cons.mpr ⟨fun c hc => ?_, ih (k + 1)⟩
        have := cellsFrom_bounds f (k + 1) n c hc
        simp only
        omega
  · have := cellsFrom_bounds f 0 n c hc
    exact ⟨by omega, this.2.2⟩
  · suffices ∀ k, k ≤ a → a < k + n → lutRead (cellsFrom f k n) a = f a from this 0 (by omega) (by omega)
    clear ha
    induction n with
    | zero => intro k h1 h2; omega
    | succ n ih =>
      intro k h1 h2
      simp only [cellsFrom]
      by_cases hk : a = k
      · subst hk
        split
        · rename_i h0
          rw [h0]
          exact lutRead_of_forall_lt _ _ fun c hc => by
            have := cellsFrom_bounds f (a + 1) n c hc
            omega
        · simp [lutRead_cons]
      · have := ih (k + 1) (by omega) (by omega)
        split
        · exact this
        · simpa [lutRead_cons, hk] using this

/-- Every predicate on bytes is some parameter's IsPrintable. -/
theorem exists_printable (p : Params) (q : Byte → Bool) :
    ∃ ranges, ∀ c, isPrintable { p with printable := ranges } c = q c := by
  refine ⟨((List.finRange 256).map BitVec.ofFin |>.filter q).map fun c => ⟨c, c⟩, fun c => ?_⟩
  rw [Bool.eq_iff_iff]
  constructor
  · intro h
    simp only [isPrintable, List.any_eq_true, List.mem_map, List.mem_filter] at h
    obtain ⟨r, ⟨x, ⟨-, hx⟩, rfl⟩, hr⟩ := h
    simp only [Bool.and_eq_true, decide_eq_true_eq] at hr
    rwa [← BitVec.le_antisymm hr.1 hr.2]
  · intro h
    simp only [isPrintable, List.any_eq_true, List.mem_map, List.mem_filter]
    exact ⟨⟨c, c⟩, ⟨c, ⟨⟨c.toFin, by simp, by simp⟩, h⟩, rfl⟩, by simp⟩

/-- The default parameters are allowed, their LUT in canonical form. -/
theorem defaultParams_wf : defaultParams.Wf := by decide

end Sys2Proof.Machine
end

