-- ==== Sys2Proof/Laws/State.lean ====
section
/-! SUPPORT. One lemma per field per update of the state, all true by definition, so that no later proof unfolds a record update. -/

namespace Sys2Proof.Machine

variable (s : State)

section setAccumulator

variable (f : Frame) (c : Count) (r : Bool)

@[simp] theorem State.setAccumulator_params : (s.setAccumulator f c r).params = s.params := rfl
@[simp] theorem State.setAccumulator_shift : (s.setAccumulator f c r).shift = f := rfl
@[simp] theorem State.setAccumulator_count : (s.setAccumulator f c r).count = c := rfl
@[simp] theorem State.setAccumulator_ready : (s.setAccumulator f c r).ready = r := rfl
@[simp] theorem State.setAccumulator_pend : (s.setAccumulator f c r).pend = s.pend := rfl
@[simp] theorem State.setAccumulator_last : (s.setAccumulator f c r).last = s.last := rfl
@[simp] theorem State.setAccumulator_out : (s.setAccumulator f c r).out = s.out := rfl
@[simp] theorem State.setAccumulator_syncC : (s.setAccumulator f c r).syncC = s.syncC := rfl
@[simp] theorem State.setAccumulator_syncD : (s.setAccumulator f c r).syncD = s.syncD := rfl
@[simp] theorem State.setAccumulator_prevC : (s.setAccumulator f c r).prevC = s.prevC := rfl
@[simp] theorem State.setAccumulator_inputs : (s.setAccumulator f c r).inputs = s.inputs := rfl

end setAccumulator

section setTranslator

variable (p : Bool) (l : Byte)

@[simp] theorem State.setTranslator_params : (s.setTranslator p l).params = s.params := rfl
@[simp] theorem State.setTranslator_shift : (s.setTranslator p l).shift = s.shift := rfl
@[simp] theorem State.setTranslator_count : (s.setTranslator p l).count = s.count := rfl
@[simp] theorem State.setTranslator_ready : (s.setTranslator p l).ready = s.ready := rfl
@[simp] theorem State.setTranslator_pend : (s.setTranslator p l).pend = p := rfl
@[simp] theorem State.setTranslator_last : (s.setTranslator p l).last = l := rfl
@[simp] theorem State.setTranslator_out : (s.setTranslator p l).out = s.out := rfl
@[simp] theorem State.setTranslator_syncC : (s.setTranslator p l).syncC = s.syncC := rfl
@[simp] theorem State.setTranslator_syncD : (s.setTranslator p l).syncD = s.syncD := rfl
@[simp] theorem State.setTranslator_prevC : (s.setTranslator p l).prevC = s.prevC := rfl
@[simp] theorem State.setTranslator_inputs : (s.setTranslator p l).inputs = s.inputs := rfl

end setTranslator

section setOut

variable (o : Out)

@[simp] theorem State.setOut_params : (s.setOut o).params = s.params := rfl
@[simp] theorem State.setOut_shift : (s.setOut o).shift = s.shift := rfl
@[simp] theorem State.setOut_count : (s.setOut o).count = s.count := rfl
@[simp] theorem State.setOut_ready : (s.setOut o).ready = s.ready := rfl
@[simp] theorem State.setOut_pend : (s.setOut o).pend = s.pend := rfl
@[simp] theorem State.setOut_last : (s.setOut o).last = s.last := rfl
@[simp] theorem State.setOut_out : (s.setOut o).out = o := rfl
@[simp] theorem State.setOut_syncC : (s.setOut o).syncC = s.syncC := rfl
@[simp] theorem State.setOut_syncD : (s.setOut o).syncD = s.syncD := rfl
@[simp] theorem State.setOut_prevC : (s.setOut o).prevC = s.prevC := rfl
@[simp] theorem State.setOut_inputs : (s.setOut o).inputs = s.inputs := rfl

end setOut

section setEdgeDet

variable (a b : List Bool) (c : Bool)

@[simp] theorem State.setEdgeDet_params : (s.setEdgeDet a b c).params = s.params := rfl
@[simp] theorem State.setEdgeDet_shift : (s.setEdgeDet a b c).shift = s.shift := rfl
@[simp] theorem State.setEdgeDet_count : (s.setEdgeDet a b c).count = s.count := rfl
@[simp] theorem State.setEdgeDet_ready : (s.setEdgeDet a b c).ready = s.ready := rfl
@[simp] theorem State.setEdgeDet_pend : (s.setEdgeDet a b c).pend = s.pend := rfl
@[simp] theorem State.setEdgeDet_last : (s.setEdgeDet a b c).last = s.last := rfl
@[simp] theorem State.setEdgeDet_out : (s.setEdgeDet a b c).out = s.out := rfl
@[simp] theorem State.setEdgeDet_syncC : (s.setEdgeDet a b c).syncC = a := rfl
@[simp] theorem State.setEdgeDet_syncD : (s.setEdgeDet a b c).syncD = b := rfl
@[simp] theorem State.setEdgeDet_prevC : (s.setEdgeDet a b c).prevC = c := rfl
@[simp] theorem State.setEdgeDet_inputs : (s.setEdgeDet a b c).inputs = s.inputs := rfl

end setEdgeDet

section setInputs

variable (is : List Input)

@[simp] theorem State.setInputs_params : (s.setInputs is).params = s.params := rfl
@[simp] theorem State.setInputs_shift : (s.setInputs is).shift = s.shift := rfl
@[simp] theorem State.setInputs_count : (s.setInputs is).count = s.count := rfl
@[simp] theorem State.setInputs_ready : (s.setInputs is).ready = s.ready := rfl
@[simp] theorem State.setInputs_pend : (s.setInputs is).pend = s.pend := rfl
@[simp] theorem State.setInputs_last : (s.setInputs is).last = s.last := rfl
@[simp] theorem State.setInputs_out : (s.setInputs is).out = s.out := rfl
@[simp] theorem State.setInputs_syncC : (s.setInputs is).syncC = s.syncC := rfl
@[simp] theorem State.setInputs_syncD : (s.setInputs is).syncD = s.syncD := rfl
@[simp] theorem State.setInputs_prevC : (s.setInputs is).prevC = s.prevC := rfl
@[simp] theorem State.setInputs_inputs : (s.setInputs is).inputs = is := rfl

end setInputs

/-! The state RESET leaves. -/

@[simp] theorem State.initial_params (p : Params) : (State.initial p).params = p := rfl
@[simp] theorem State.initial_shift (p : Params) : (State.initial p).shift = 0x000 := rfl
@[simp] theorem State.initial_count (p : Params) : (State.initial p).count = 0 := rfl
@[simp] theorem State.initial_ready (p : Params) : (State.initial p).ready = false := rfl
@[simp] theorem State.initial_pend (p : Params) : (State.initial p).pend = false := rfl
@[simp] theorem State.initial_last (p : Params) : (State.initial p).last = noneCode := rfl
@[simp] theorem State.initial_out (p : Params) : (State.initial p).out = Out.zero := rfl
@[simp] theorem State.initial_syncC (p : Params) : (State.initial p).syncC = List.replicate p.syncStages true := rfl
@[simp] theorem State.initial_syncD (p : Params) : (State.initial p).syncD = List.replicate p.syncStages true := rfl
@[simp] theorem State.initial_prevC (p : Params) : (State.initial p).prevC = true := rfl
@[simp] theorem State.initial_inputs (p : Params) : (State.initial p).inputs = [] := rfl

/-! The same for the updates built of them. -/

@[simp] theorem State.clearAccumulator_params : (s.clearAccumulator).params = s.params := rfl
@[simp] theorem State.clearAccumulator_shift : (s.clearAccumulator).shift = 0x000 := rfl
@[simp] theorem State.clearAccumulator_count : (s.clearAccumulator).count = 0 := rfl
@[simp] theorem State.clearAccumulator_ready : (s.clearAccumulator).ready = false := rfl
@[simp] theorem State.clearAccumulator_pend : (s.clearAccumulator).pend = s.pend := rfl
@[simp] theorem State.clearAccumulator_last : (s.clearAccumulator).last = s.last := rfl
@[simp] theorem State.clearAccumulator_out : (s.clearAccumulator).out = s.out := rfl
@[simp] theorem State.clearAccumulator_syncC : (s.clearAccumulator).syncC = s.syncC := rfl
@[simp] theorem State.clearAccumulator_syncD : (s.clearAccumulator).syncD = s.syncD := rfl
@[simp] theorem State.clearAccumulator_prevC : (s.clearAccumulator).prevC = s.prevC := rfl
@[simp] theorem State.clearAccumulator_inputs : (s.clearAccumulator).inputs = s.inputs := rfl

@[simp] theorem State.idleEdgeDet_params : (s.idleEdgeDet).params = s.params := rfl
@[simp] theorem State.idleEdgeDet_shift : (s.idleEdgeDet).shift = s.shift := rfl
@[simp] theorem State.idleEdgeDet_count : (s.idleEdgeDet).count = s.count := rfl
@[simp] theorem State.idleEdgeDet_ready : (s.idleEdgeDet).ready = s.ready := rfl
@[simp] theorem State.idleEdgeDet_pend : (s.idleEdgeDet).pend = s.pend := rfl
@[simp] theorem State.idleEdgeDet_last : (s.idleEdgeDet).last = s.last := rfl
@[simp] theorem State.idleEdgeDet_out : (s.idleEdgeDet).out = s.out := rfl
@[simp] theorem State.idleEdgeDet_syncC : (s.idleEdgeDet).syncC = List.replicate s.params.syncStages true := rfl
@[simp] theorem State.idleEdgeDet_syncD : (s.idleEdgeDet).syncD = List.replicate s.params.syncStages true := rfl
@[simp] theorem State.idleEdgeDet_prevC : (s.idleEdgeDet).prevC = true := rfl
@[simp] theorem State.idleEdgeDet_inputs : (s.idleEdgeDet).inputs = s.inputs := rfl

@[simp] theorem State.clockEdgeDet_params (c : PortSample) : (s.clockEdgeDet c).params = s.params := rfl
@[simp] theorem State.clockEdgeDet_shift (c : PortSample) : (s.clockEdgeDet c).shift = s.shift := rfl
@[simp] theorem State.clockEdgeDet_count (c : PortSample) : (s.clockEdgeDet c).count = s.count := rfl
@[simp] theorem State.clockEdgeDet_ready (c : PortSample) : (s.clockEdgeDet c).ready = s.ready := rfl
@[simp] theorem State.clockEdgeDet_pend (c : PortSample) : (s.clockEdgeDet c).pend = s.pend := rfl
@[simp] theorem State.clockEdgeDet_last (c : PortSample) : (s.clockEdgeDet c).last = s.last := rfl
@[simp] theorem State.clockEdgeDet_out (c : PortSample) : (s.clockEdgeDet c).out = s.out := rfl
@[simp] theorem State.clockEdgeDet_syncC (c : PortSample) : (s.clockEdgeDet c).syncC = shiftStage s.params.syncStages s.syncC c.kbdClk := rfl
@[simp] theorem State.clockEdgeDet_syncD (c : PortSample) : (s.clockEdgeDet c).syncD = shiftStage s.params.syncStages s.syncD c.kbdData := rfl
@[simp] theorem State.clockEdgeDet_prevC (c : PortSample) : (s.clockEdgeDet c).prevC = s.clkS := rfl
@[simp] theorem State.clockEdgeDet_inputs (c : PortSample) : (s.clockEdgeDet c).inputs = s.inputs := rfl

@[simp] theorem State.dropInput_params : (s.dropInput).params = s.params := rfl
@[simp] theorem State.dropInput_shift : (s.dropInput).shift = s.shift := rfl
@[simp] theorem State.dropInput_count : (s.dropInput).count = s.count := rfl
@[simp] theorem State.dropInput_ready : (s.dropInput).ready = s.ready := rfl
@[simp] theorem State.dropInput_pend : (s.dropInput).pend = s.pend := rfl
@[simp] theorem State.dropInput_last : (s.dropInput).last = s.last := rfl
@[simp] theorem State.dropInput_out : (s.dropInput).out = s.out := rfl
@[simp] theorem State.dropInput_syncC : (s.dropInput).syncC = s.syncC := rfl
@[simp] theorem State.dropInput_syncD : (s.dropInput).syncD = s.syncD := rfl
@[simp] theorem State.dropInput_prevC : (s.dropInput).prevC = s.prevC := rfl
@[simp] theorem State.dropInput_inputs : (s.dropInput).inputs = s.inputs.tail := rfl

/-! Writing back what stands there changes nothing, and two writes of one part are the last. -/

@[simp] theorem State.setOut_setOut (o o' : Out) : (s.setOut o).setOut o' = s.setOut o' := rfl

@[simp] theorem State.setInputs_setInputs (is is' : List Input) : (s.setInputs is).setInputs is' = s.setInputs is' := rfl

@[simp] theorem State.setOut_self : s.setOut s.out = s := rfl

@[simp] theorem State.setInputs_self : s.setInputs s.inputs = s := rfl

/-- The state RESET leaves is the initial state of the same machine, its inputs still to come. -/
theorem State.reset_writes_initial :
    ((s.clearAccumulator.setTranslator false noneCode).setOut Out.zero).idleEdgeDet =
      (State.initial s.params).setInputs s.inputs := rfl

end Sys2Proof.Machine
end

