-- ==== Sys2Proof/Laws/Ops.lean ====
section
/-! SUPPORT. One lemma for each shared operation that says all it can do; proofs cite these and unfold no operation. -/

namespace Sys2Proof.Machine

/-- All a translation can be: the branches of 41_translator.md R141, in their order. -/
theorem translate_cases (p : Params) (pend : Bool) (last b : Byte) :
    (b = releasePrefix ∧ translateByte p pend last b = (.none, true, last)) ∨
    (b ≠ releasePrefix ∧ pend = true ∧ translateByte p pend last b = (.none, false, noneCode)) ∨
    (b ≠ releasePrefix ∧ pend = false ∧ b = last ∧ translateByte p pend last b = (.none, false, last)) ∨
    (b ≠ releasePrefix ∧ pend = false ∧ b ≠ last ∧ translateByte p pend last b = (acceptEvent p b, false, b)) := by
  by_cases hb : b = releasePrefix
  · exact .inl ⟨hb, by simp [translateByte, hb]⟩
  · cases pend
    · by_cases hl : b = last
      · exact .inr (.inr (.inl ⟨hb, rfl, hl, by subst hl; simp [translateByte, hb]⟩))
      · exact .inr (.inr (.inr ⟨hb, rfl, hl, by simp [translateByte, hb, hl]⟩))
    · exact .inr (.inl ⟨hb, rfl, by simp [translateByte, hb]⟩)

/-- All an accepted byte's event can be. -/
theorem acceptEvent_cases (p : Params) (b : Byte) :
    (lookupLut p b = some p.enterSentinel ∧ acceptEvent p b = .commit) ∨
    (lookupLut p b ≠ some p.enterSentinel ∧ b = p.backspaceCode ∧ acceptEvent p b = .backspace) ∨
    (lookupLut p b ≠ some p.enterSentinel ∧ b ≠ p.backspaceCode ∧
      ∃ c, lookupLut p b = some c ∧ isPrintable p c = true ∧ acceptEvent p b = .insert c) ∨
    (lookupLut p b ≠ some p.enterSentinel ∧ b ≠ p.backspaceCode ∧
      (∀ c, lookupLut p b = some c → isPrintable p c = false) ∧ acceptEvent p b = .none) := by
  unfold acceptEvent
  split
  · exact .inl ⟨by assumption, rfl⟩
  · rename_i hs
    split
    · exact .inr (.inl ⟨hs, by assumption, rfl⟩)
    · rename_i hb
      refine .inr (.inr ?_)
      split
      · rename_i c hc
        split
        · exact .inl ⟨hs, hb, c, hc, by assumption, rfl⟩
        · rename_i hp
          refine .inr ⟨hs, hb, fun c' hc' => ?_, rfl⟩
          rw [hc] at hc'
          cases hc'
          simpa using hp
      · rename_i hn
        exact .inr ⟨hs, hb, fun c hc => (Option.some_ne_none c (hc.symm.trans hn)).elim, rfl⟩

/-- All `edgeFramer` can answer. -/
theorem edgeFramer_cases (d : Bool) (s : State) :
    (s.ready = true ∧ edgeFramer d s = .next s) ∨
    (s.ready = false ∧ s.huntDrops d = true ∧ edgeFramer d s = .next s) ∨
    (s.ready = false ∧ s.huntDrops d = false ∧ ∃ h : s.count.val < 11,
      edgeFramer d s = .next (s.setAccumulator (setBit s.shift s.count.val d) ⟨s.count.val + 1, by omega⟩
        (s.count.val + 1 == 11))) ∨
    (s.ready = false ∧ s.huntDrops d = false ∧ s.count.val = 11 ∧ edgeFramer d s = .fault .accumulatorOverrun) := by
  cases hr : s.ready
  · cases hh : s.huntDrops d
    · by_cases hc : s.count.val < 11
      · exact .inr (.inr (.inl ⟨rfl, rfl, hc, by simp [edgeFramer, hr, hh, hc, readyAt, frameBits]⟩))
      · have h11 : s.count.val = 11 := by have := s.count.isLt; omega
        exact .inr (.inr (.inr ⟨rfl, rfl, h11, by simp [edgeFramer, hr, hh, (nextCount_eq_none s.count).mpr h11]⟩))
    · exact .inr (.inl ⟨rfl, rfl, by simp [edgeFramer, hr, hh]⟩)
  · exact .inl ⟨rfl, by simp [edgeFramer, hr]⟩

/-- All `takeFramer` can answer. -/
theorem takeFramer_cases (s : State) :
    (s.ready = false ∧ takeFramer s = s.setOut Out.zero) ∨
    (s.ready = true ∧ s.params.parityCheck = true ∧ frameOk s.shift = false ∧
      takeFramer s = s.clearAccumulator.setOut Out.frameError) ∨
    (s.ready = true ∧ (s.params.parityCheck = true → frameOk s.shift = true) ∧
      takeFramer s = s.clearAccumulator.report (frameByte s.shift)) := by
  cases hr : s.ready
  · exact .inl ⟨rfl, by simp [takeFramer, hr]⟩
  · cases hp : s.params.parityCheck
    · exact .inr (.inr ⟨rfl, by simp, by simp [takeFramer, hr, hp]⟩)
    · cases hf : frameOk s.shift
      · exact .inr (.inl ⟨rfl, rfl, rfl, by simp [takeFramer, hr, hp, hf]⟩)
      · exact .inr (.inr ⟨rfl, by simp, by simp [takeFramer, hr, hp, hf]⟩)

@[simp] theorem exec_reset (s : State) : exec .reset s = .next ((State.initial s.params).setInputs s.inputs) := rfl

@[simp] theorem exec_nop (s : State) : exec .nop s = .next (s.setOut Out.zero) := rfl

@[simp] theorem exec_edge (d : Bool) (s : State) : exec (.edge d) s = edgeFramer d (s.setOut Out.zero) := rfl

@[simp] theorem exec_take (s : State) : exec .take s = .next (takeFramer s) := rfl

@[simp] theorem exec_takeEdge (d : Bool) (s : State) : exec (.takeEdge d) s = edgeFramer d (takeFramer s) := rfl

/-- `takeFramer` writes no parameter. -/
@[simp] theorem takeFramer_params (s : State) : (takeFramer s).params = s.params := by
  rcases takeFramer_cases s with ⟨-, h⟩ | ⟨-, -, -, h⟩ | ⟨-, -, h⟩ <;> rw [h] <;> rfl

/-- `edgeFramer` writes no parameter. -/
theorem edgeFramer_params {d : Bool} {s t : State} (h : edgeFramer d s = .next t) : t.params = s.params := by
  rcases edgeFramer_cases d s with ⟨-, e⟩ | ⟨-, -, e⟩ | ⟨-, -, hc, e⟩ | ⟨-, -, -, e⟩ <;> rw [e] at h <;> cases h <;> rfl

/-- No operation writes the parameters, the LUT among them (20_memory.md R64). -/
theorem exec_params {i : Instr} {s t : State} (h : exec i s = .next t) : t.params = s.params := by
  cases i with
  | reset => cases h; rfl
  | nop => cases h; rfl
  | edge d => exact edgeFramer_params (s := s.setOut Out.zero) h
  | take => cases h; exact takeFramer_params s
  | takeEdge d => exact (edgeFramer_params h).trans (takeFramer_params s)

/-- The LUT keeps its canonical form: no operation on it is a write. -/
theorem exec_keeps_lut {i : Instr} {s t : State} (h : exec i s = .next t) (hl : s.params.LutOk) : t.params.LutOk := by
  rw [exec_params h]; exact hl

@[simp] theorem State.runEdgeDet_params (c : PortSample) (s : State) : (s.runEdgeDet c).params = s.params := by
  unfold State.runEdgeDet
  split <;> rfl

/-- A synchroniser keeps its length. -/
theorem length_shiftStage (n : Nat) (sync : List Bool) (level : Bool) (h : sync.length = n) :
    (shiftStage n sync level).length = n := by
  simp [shiftStage, h]

end Sys2Proof.Machine
end

