-- ==== Sys2Proof/Laws/PerInstr.lean ====
section
/-! SUPPORT. Per operation: its word has the pattern of its row of the operation map, and of no other row (30_encoding.md R71). -/

namespace Sys2Proof.Laws.TableRow

/-- Exactly one row of the operation map selects the operation's word, and that row has the operation's name. -/
def Statement (i : Instr) : Prop :=
  (opTable.filter fun r => r.selects (encode i)).map OpRow.mnemonic = [i.mnemonic]

theorem reset : Statement .reset := rfl

theorem nop : Statement .nop := rfl

theorem edge (d : Bool) : Statement (.edge d) := by cases d <;> rfl

theorem take : Statement .take := rfl

theorem takeEdge (d : Bool) : Statement (.takeEdge d) := by cases d <;> rfl

end Sys2Proof.Laws.TableRow
end

