-- ==== Sys2Proof/Laws/Run.lean ====
section
/-! SUPPORT. Runs one piece at a time: of the machine, of lists of operations, of the mailbox; and what the shared operations cannot
touch. -/

namespace Sys2Proof.Machine

theorem run_succ_of_next {n : Nat} {s t : State} (h : step s = .next t) :
    Host.Core.run core (n + 1) s = Host.Core.run core n t := by
  have h' : core.step s = .next t := h
  simp only [Host.Core.run, h']

theorem run_succ_of_fault {n : Nat} {s : State} {r : Fault} (h : step s = .fault r) :
    Host.Core.run core (n + 1) s = .fault r := by
  have h' : core.step s = .fault r := h
  simp only [Host.Core.run, h']

theorem run_succ_of_refused {n : Nat} {s : State} {r : Refusal} (h : step s = .refused r) :
    Host.Core.run core (n + 1) s = .refused r := by
  have h' : core.step s = .refused r := h
  simp only [Host.Core.run, h']

@[simp] theorem execAll_nil (s : State) : execAll [] s = .next s := rfl

theorem execAll_cons_of_next {i : Instr} {is : List Instr} {s t : State} (h : exec i s = .next t) :
    execAll (i :: is) s = execAll is t := by
  simp only [execAll, h]

theorem execAll_append_of_next {a b : List Instr} {s t : State} (h : execAll a s = .next t) :
    execAll (a ++ b) s = execAll b t := by
  induction a generalizing s with
  | nil => cases h; rfl
  | cons i is ih =>
    simp only [execAll] at h
    cases he : exec i s with
    | next u => rw [he] at h; rw [List.cons_append, execAll_cons_of_next he]; exact ih h
    | fault r => rw [he] at h; cases h
    | refused r => rw [he] at h; cases h

@[simp] theorem execOuts_nil (s : State) : execOuts [] s = [] := rfl

theorem execOuts_cons_of_next {i : Instr} {is : List Instr} {s t : State} (h : exec i s = .next t) :
    execOuts (i :: is) s = t.out :: execOuts is t := by
  simp only [execOuts, h]

theorem execOuts_append_of_next {a b : List Instr} {s t : State} (h : execAll a s = .next t) :
    execOuts (a ++ b) s = execOuts a s ++ execOuts b t := by
  induction a generalizing s with
  | nil => cases h; rfl
  | cons i is ih =>
    simp only [execAll] at h
    cases he : exec i s with
    | next u =>
      rw [he] at h
      rw [List.cons_append, execOuts_cons_of_next he, execOuts_cons_of_next he, ih h, List.cons_append]
    | fault r => rw [he] at h; cases h
    | refused r => rw [he] at h; cases h

@[simp] theorem boxStep_reset (levels : List Bool) : boxStep .reset levels = (none, []) := rfl

@[simp] theorem boxStep_nop (levels : List Bool) : boxStep .nop levels = (none, levels) := rfl

@[simp] theorem boxStep_edge (d : Bool) (levels : List Bool) : boxStep (.edge d) levels = (none, boxAccept d levels) := rfl

@[simp] theorem boxStep_take (levels : List Bool) : boxStep .take levels = boxTake levels := rfl

@[simp] theorem boxStep_takeEdge (d : Bool) (levels : List Bool) :
    boxStep (.takeEdge d) levels = ((boxTake levels).1, boxAccept d (boxTake levels).2) := rfl

/-- `edgeFramer` writes SHIFT, COUNT and READY and nothing else. -/
theorem edgeFramer_frame {d : Bool} {s t : State} (h : edgeFramer d s = .next t) :
    t = s.setAccumulator t.shift t.count t.ready := by
  rcases edgeFramer_cases d s with ⟨-, e⟩ | ⟨-, -, e⟩ | ⟨-, -, hc, e⟩ | ⟨-, -, -, e⟩ <;> rw [e] at h <;> cases h <;> rfl

/-- `takeFramer` leaves EDGE-DET and the inputs. -/
theorem takeFramer_frame (s : State) :
    (takeFramer s).syncC = s.syncC ∧ (takeFramer s).syncD = s.syncD ∧ (takeFramer s).prevC = s.prevC ∧
      (takeFramer s).inputs = s.inputs := by
  rcases takeFramer_cases s with ⟨-, e⟩ | ⟨-, -, -, e⟩ | ⟨-, -, e⟩ <;> rw [e] <;> exact ⟨rfl, rfl, rfl, rfl⟩

/-- `takeFramer` keeps an empty mailbox's accumulator and clears a full one's. -/
theorem takeFramer_accumulator (s : State) :
    (s.ready = false ∧ takeFramer s = s.setOut Out.zero) ∨
    (s.ready = true ∧ (takeFramer s).shift = 0 ∧ (takeFramer s).count = 0 ∧ (takeFramer s).ready = false) := by
  rcases takeFramer_cases s with ⟨h, e⟩ | ⟨h, -, -, e⟩ | ⟨h, -, e⟩
  · exact .inl ⟨h, e⟩
  · rw [e]; exact .inr ⟨h, rfl, rfl, rfl⟩
  · rw [e]; exact .inr ⟨h, rfl, rfl, rfl⟩

/-- The digits of the number of a list of levels are the levels. -/
theorem levelsToNat_testBit (levels : List Bool) (k : Nat) : (levelsToNat levels).testBit k = levels.getD k false := by
  induction levels generalizing k with
  | nil => simp [levelsToNat]
  | cons d ds ih =>
    cases k with
    | zero => cases d <;> simp [levelsToNat, Nat.testBit_zero]
    | succ k =>
      have half : levelsToNat (d :: ds) / 2 = levelsToNat ds := by
        cases d <;> simp only [levelsToNat, Bool.toNat_true, Bool.toNat_false] <;> omega
      rw [Nat.testBit_succ, half, ih, List.getD_cons_succ]

theorem getLsbD_frameOf (levels : List Bool) (k : Nat) (hk : k < 11) :
    (frameOf levels).getLsbD k = levels.getD k false := by
  simp only [frameOf, BitVec.getLsbD_ofNat, levelsToNat_testBit, hk, decide_true, Bool.true_and]

end Sys2Proof.Machine
end

