-- ==== Sys2Proof/Tests/Slice0.lean ====
section
/-! SUPPORT. The model's own tests, each one step at most, with expected results from spec/ (the vectors of 95_test_vectors.md are
named by their numbers), and for every obligation with hypotheses a concrete state and operands that meet them. -/

open Sys2Proof Sys2Proof.Machine

namespace Sys2Proof.Tests

/-- The spec's notation for a state, `SHIFT/COUNT/READY/PEND/LAST` (95_test_vectors.md). -/
def st (shift : Frame) (count : Count) (ready pend : Bool) (last : Byte) : State :=
  { State.reset with shift := shift, count := count, ready := ready, pend := pend, last := last }

/-- The same machine with PARITY_CHECK = true. -/
def checking (s : State) : State := { s with params := { s.params with parityCheck := true } }

/-- A frame of `a` (0x1C) waiting to be taken. -/
def waitingA : State := st 0x438 11 true false 0x00

/-- The state a step answers, in the spec's notation, and its OUT. -/
def seen : Outcome → Option (Frame × Nat × Bool × Bool × Byte × Out)
  | .next t => some (t.shift, t.count.val, t.ready, t.pend, t.last, t.out)
  | .fault _ => none
  | .refused _ => none

/-! ### Decoding: words written out bit by bit (30_encoding.md R70, R71) -/

theorem test_decode_reset : decodeTableWord 8 0b1000 = some .reset ∧ decodeTableWord 8 0b1110 = some .reset := by decide

theorem test_decode_nop : decodeTableWord 8 0b0000 = some .nop ∧ decodeTableWord 8 0b0001 = some .nop := by decide

theorem test_decode_edge : decodeTableWord 8 0b0010 = some (.edge false) ∧ decodeTableWord 8 0b0011 = some (.edge true) := by
  decide

theorem test_decode_take : decodeTableWord 8 0b0100 = some .take ∧ decodeTableWord 8 0b0101 = some .take := by decide

theorem test_decode_takeEdge :
    decodeTableWord 8 0b0110 = some (.takeEdge false) ∧ decodeTableWord 8 0b0111 = some (.takeEdge true) := by decide

theorem test_decode_rejects_wider_value : decodeTableWord 8 0b10100 = none := by decide

/-! ### Well-formedness: an ill-formed term for each check -/

theorem test_wf_defaults : defaultParams.Wf := by decide

theorem test_wf_empty_table : ¬({ defaultParams with tableLen := 0, lut := [] } : Params).TableLenOk := by decide

theorem test_wf_table_too_long : ¬({ defaultParams with tableLen := 257 } : Params).TableLenOk := by decide

theorem test_wf_lut_out_of_order : ¬({ defaultParams with lut := [(0x1C, 0x61), (0x0D, 0x09)] } : Params).LutOk := by decide

theorem test_wf_lut_index_twice : ¬({ defaultParams with lut := [(0x1C, 0x61), (0x1C, 0x61)] } : Params).LutOk := by decide

theorem test_wf_lut_zero_listed : ¬({ defaultParams with lut := [(0x1C, 0x00)] } : Params).LutOk := by decide

theorem test_wf_lut_outside_table : ¬({ defaultParams with lut := [(0x80, 0x61)] } : Params).LutOk := by decide

theorem test_wf_zero_printable : ¬({ defaultParams with printable := [⟨0x00, 0x7E⟩] } : Params).PrintableOk := by decide

theorem test_wf_no_sync_stage : ¬({ defaultParams with syncStages := 0 } : Params).SyncOk := by decide

/-! ### One step on a small state -/

/-- X1. -/
theorem test_reset_x1 :
    seen (exec .reset { st 0x438 11 true true 0x1C with out := ⟨true, 0x1C, .insert, 0x61, false⟩, prevC := false }) =
      some (0x000, 0, false, false, 0x00, Out.zero) := by decide

/-- X2: the take and the edge of word 0xE are lost. -/
theorem test_reset_x2 : seen (step ((st 0x00E 4 false false 0x00).withFetchWord 8 0xE)) =
    some (0x000, 0, false, false, 0x00, Out.zero) := by decide

/-- NP1. -/
theorem test_nop_np1 :
    seen (exec .nop { st 0x00E 4 false false 0x00 with out := ⟨true, 0x1C, .insert, 0x61, false⟩ }) =
      some (0x00E, 4, false, false, 0x00, Out.zero) := by decide

/-- E3. -/
theorem test_edge_e3 : seen (exec (.edge true) (st 0x238 10 false false 0x00)) =
    some (0x638, 11, true, false, 0x00, Out.zero) := by decide

/-- E7: the start-bit hunt. -/
theorem test_edge_e7 : seen (exec (.edge true) (checking State.reset)) =
    some (0x000, 0, false, false, 0x00, Out.zero) := by decide

/-- K3. -/
theorem test_take_k3 : seen (exec .take waitingA) =
    some (0x000, 0, false, false, 0x1C, ⟨true, 0x1C, .insert, 0x61, false⟩) := by decide

/-- K13: wrong parity. -/
theorem test_take_k13 : seen (exec .take (checking (st 0x638 11 true false 0x00))) =
    some (0x000, 0, false, false, 0x00, ⟨false, 0x00, .none, 0x00, true⟩) := by decide

/-- J2. -/
theorem test_takeEdge_j2 : seen (exec (.takeEdge true) waitingA) =
    some (0x001, 1, false, false, 0x1C, ⟨true, 0x1C, .insert, 0x61, false⟩) := by decide

/-- J3. -/
theorem test_takeEdge_j3 : seen (exec (.takeEdge true) (st 0x038 10 false false 0x00)) =
    some (0x438, 11, true, false, 0x00, Out.zero) := by decide

/-- T5, T6, T9, T11 and T19 of the translator. -/
theorem test_translate_vectors :
    translateByte defaultParams true 0x1C 0xF0 = (.none, true, 0x1C) ∧
    translateByte defaultParams true 0x1C 0x1C = (.none, false, 0x00) ∧
    translateByte defaultParams false 0x00 0x66 = (.backspace, false, 0x66) ∧
    translateByte defaultParams false 0x00 0x5A = (.commit, false, 0x5A) ∧
    translateByte defaultParams false 0x00 0x80 = (.none, false, 0x80) := by decide

/-- F2 of EDGE-DET: edge events in cycles 3 and 5, D = 1. -/
theorem test_edgeDet_f2 :
    State.cycleWords [⟨false, false, true, true⟩, ⟨false, false, false, true⟩, ⟨false, false, true, true⟩,
      ⟨false, false, false, true⟩, ⟨false, false, true, true⟩, ⟨false, false, true, true⟩] State.reset =
      [0b0001, 0b0001, 0b0001, 0b0011, 0b0001, 0b0011] := by decide

/-! ### What meets the hypotheses of each obligation -/

theorem witness_IgnoredBitsDoNotMatter :
    ((0x8 : OpWord).getLsbD 3 = true ∧ (0xF : OpWord).getLsbD 3 = true) ∧
    ((0x0 : OpWord) &&& 0b1110 = 0b0000 ∧ (0x1 : OpWord) &&& 0b1110 = 0b0000) ∧
    ((0x4 : OpWord) &&& 0b1110 = 0b0100 ∧ (0x5 : OpWord) &&& 0b1110 = 0b0100) := by decide

theorem witness_EncodeThenDecode : (Instr.takeEdge true).wf = true ∧ 4 ≤ 8 ∧ 16 ≤ 16 := by decide

theorem witness_PseudoOperationsExpand : State.reset.AccumulatorOk ∧ State.reset.count = 0 := by decide

theorem witness_FrameRoundTrip : (checking State.reset).AccumulatorOk ∧ (checking State.reset).count = 0 := by decide

theorem witness_StepPerformsThePresentedWord :
    (State.reset.setInputs [.word 0x3]).inputs = .word 0x3 :: [] ∧
    (State.reset.setInputs [.cycle ⟨true, true, false, false⟩]).inputs = .cycle ⟨true, true, false, false⟩ :: [] ∧
    (⟨true, true, false, false⟩ : PortSample).rst = true ∧
    (State.reset.setInputs [.cycle ⟨false, true, false, true⟩]).inputs = .cycle ⟨false, true, false, true⟩ :: [] ∧
    (⟨false, true, false, true⟩ : PortSample).rst = false ∧
    State.reset.inputs = [] := by decide

theorem witness_EdgeDetectorFindsFallingEdges :
    State.reset.EdgeDetOk ∧ 1 ≤ State.reset.params.syncStages ∧ idleCycle.rst = false ∧
    1 ≤ defaultParams.syncStages ∧ (∀ c ∈ [idleCycle], c.rst = false) ∧ 0 < [idleCycle].length := by decide

/-- F3: a line low at reset release gives the event at cycle SYNC_STAGES = 2, the earliest one. -/
theorem witness_NoEdgeEventDuringOrSoonAfterReset :
    (State.reset.setInputs [.cycle ⟨true, false, false, false⟩]).inputs = .cycle ⟨true, false, false, false⟩ :: [] ∧
    (⟨true, false, false, false⟩ : PortSample).rst = true ∧
    (∀ x ∈ List.replicate 3 (⟨false, false, false, false⟩ : PortSample), x.rst = false) ∧
    1 ≤ State.reset.params.syncStages ∧
    (State.cycleWords (List.replicate 3 ⟨false, false, false, false⟩)
      (State.reset.edgeDetAfter ⟨true, false, false, false⟩))[2]? = some 0b0010 ∧
    (0b0010 : OpWord).getLsbD 1 = true := by decide

theorem witness_FrontEndRunRefinesCoreRun :
    ∃ t, Host.Core.run Sys2Proof.core [idleCycle].length
      { State.reset with inputs := [idleCycle].map Input.cycle ++ [] } = .next t := ⟨_, rfl⟩

theorem witness_ResetEffect :
    (0x8 : OpWord).getLsbD 3 = true ∧ ∃ t, exec .reset waitingA = .next t := ⟨by decide, _, rfl⟩

theorem witness_NopEffect : (0x1 : OpWord) &&& 0b1110 = 0b0000 := by decide

/-- Each case of EDGE: a frame waiting; the hunt; a level stored at SHIFT[0] and at SHIFT[10]. -/
theorem witness_EdgeEffect :
    waitingA.ready = true ∧
    ((checking State.reset).ready = false ∧ (checking State.reset).params.parityCheck = true ∧
      (checking State.reset).count = 0) ∧
    (State.reset.ready = false ∧ ¬(State.reset.params.parityCheck = true ∧ State.reset.count = 0 ∧ true = true) ∧
      State.reset.count.val < 11) ∧
    ((st 0x038 10 false false 0x00).ready = false ∧
      ¬((st 0x038 10 false false 0x00).params.parityCheck = true ∧ (st 0x038 10 false false 0x00).count = 0 ∧ true = true) ∧
      (st 0x038 10 false false 0x00).count.val < 11) ∧
    (0x3 : OpWord) &&& 0b1110 = 0b0010 := by decide

/-- Each case of TAKE: nothing ready; a bad frame; a good frame with the check on; any frame with it off. -/
theorem witness_TakeEffect :
    State.reset.ready = false ∧
    ((checking (st 0x638 11 true false 0x00)).ready = true ∧
      (checking (st 0x638 11 true false 0x00)).params.parityCheck = true ∧
      frameOk (checking (st 0x638 11 true false 0x00)).shift = false) ∧
    ((checking waitingA).ready = true ∧
      ¬((checking waitingA).params.parityCheck = true ∧ frameOk (checking waitingA).shift = false)) ∧
    (waitingA.ready = true ∧ ¬(waitingA.params.parityCheck = true ∧ frameOk waitingA.shift = false)) ∧
    (0x5 : OpWord) &&& 0b1110 = 0b0100 := by decide

theorem witness_TakeEdgeEffect :
    (waitingA.count.val = 11 → waitingA.ready = true) ∧
    (waitingA.ready = true ∧ waitingA.params.parityCheck = false) ∧
    ((checking waitingA).ready = true ∧ ((checking waitingA).params.parityCheck = false ∨ false = false)) ∧
    ((st 0x038 10 false false 0x00).ready = false ∧ (st 0x038 10 false false 0x00).count.val = 10) ∧
    ((st 0x038 9 false false 0x00).ready = false ∧ (st 0x038 9 false false 0x00).count.val < 10) ∧
    (State.reset.ready = false ∧ State.reset.count.val < 10) ∧
    (0x7 : OpWord) &&& 0b1110 = 0b0110 := by decide

/-- Each operation answers a next state somewhere, with READY = 0 and with READY = 1. -/
theorem witness_OperationsLeaveTheRestUnchanged :
    (∃ t, exec .reset waitingA = .next t) ∧ (∃ t, exec .nop waitingA = .next t) ∧
    (∃ t, exec (.edge true) State.reset = .next t) ∧ State.reset.ready = false ∧
    (∃ t, exec .take State.reset = .next t) ∧
    (∃ t, exec (.takeEdge true) State.reset = .next t) ∧ (∃ t, exec (.takeEdge false) waitingA = .next t) :=
  ⟨⟨_, rfl⟩, ⟨_, rfl⟩, ⟨_, rfl⟩, rfl, ⟨_, rfl⟩, ⟨_, rfl⟩, ⟨_, rfl⟩⟩

/-- The state in which the model's one fault is raised. -/
theorem witness_OnlyOverrunStops : exec (.edge true) (st 0x438 11 false false 0x00) = .fault .accumulatorOverrun := rfl

theorem witness_CounterNeverWraps :
    (∃ t, exec (.edge true) (st 0x038 10 false false 0x00) = .next t) ∧ (∃ t, exec (.takeEdge true) waitingA = .next t) :=
  ⟨⟨_, rfl⟩, ⟨_, rfl⟩⟩

theorem witness_ReadyIsSetByTheEleventhLevelOnly :
    (∃ t, exec (.edge true) (st 0x038 10 false false 0x00) = .next t ∧ t.ready = true) ∧
    (st 0x038 10 false false 0x00).ready = false ∧ (st 0x038 10 false false 0x00).count.val = 10 ∧
    (∃ t, exec .take waitingA = .next t ∧ t.ready = false) ∧ waitingA.ready = true :=
  ⟨⟨_, rfl, rfl⟩, rfl, rfl, ⟨_, rfl, rfl⟩, rfl⟩

theorem witness_OutIsValidForOneStep :
    (∃ t, exec .nop { waitingA with out := ⟨true, 0x1C, .insert, 0x61, false⟩ } = .next t) ∧
    (∃ t, exec .take State.reset = .next t) ∧ State.reset.ready = false :=
  ⟨⟨_, rfl⟩, ⟨_, rfl⟩, rfl⟩

/-- T5, T6, T2, T11, T9, T1 and T18: a byte for every branch and every event. -/
theorem witness_TranslateBranches :
    (0x1C : Byte) ≠ 0xF0 ∧ (0x1C : Byte) ≠ 0x00 ∧ (0x5A : Byte) ≠ 0xF0 ∧ (0x66 : Byte) ≠ 0xF0 ∧ (0x7F : Byte) ≠ 0xF0 ∧
    lookupLut defaultParams 0x5A = some defaultParams.enterSentinel ∧
    (lookupLut defaultParams 0x66 ≠ some defaultParams.enterSentinel ∧ 0x66 = defaultParams.backspaceCode) ∧
    (lookupLut defaultParams 0x1C ≠ some defaultParams.enterSentinel ∧ 0x1C ≠ defaultParams.backspaceCode ∧
      lookupLut defaultParams 0x1C = some 0x61 ∧ isPrintable defaultParams 0x61 = true) ∧
    (lookupLut defaultParams 0x7F = some 0x00 ∧ isPrintable defaultParams 0x00 = false) := by decide

/-- U3 and U4: the last index of the table and the first outside; T18 for the third clause. -/
theorem witness_LookupIsBoundsChecked :
    (0x7F : Byte).toNat < defaultParams.tableLen ∧ defaultParams.tableLen ≤ (0x80 : Byte).toNat ∧
    lookupLut defaultParams 0x7F = some 0x00 ∧ 0x00 ≠ defaultParams.enterSentinel ∧
    isPrintable defaultParams 0x00 = false ∧ 0x7F ≠ defaultParams.backspaceCode := by decide

theorem witness_ReleasePrefixSetsPend :
    (st 0x7E0 11 true true 0x1C).ready = true ∧ (st 0x7E0 11 true true 0x1C).params.parityCheck = false ∧
    (st 0x7E0 11 true true 0x1C).shift.extractLsb' 1 8 = 0xF0 ∧ (st 0x7E0 11 true true 0x1C).last ≠ 0xF0 ∧
    (seen (exec .take (st 0x7E0 11 true true 0x1C))).isSome := by decide

theorem witness_KeyUpClearsLast :
    (0x32 : Byte) ≠ 0xF0 ∧ (st 0x438 11 true true 0x1C).ready = true ∧
    (st 0x438 11 true true 0x1C).params.parityCheck = false ∧ (st 0x438 11 true true 0x1C).pend = true ∧
    (st 0x438 11 true true 0x1C).shift.extractLsb' 1 8 ≠ 0xF0 := by decide

theorem witness_RepeatsAreSuppressed : (0x1C : Byte) ≠ 0xF0 ∧ (0x1C : Byte) ≠ 0x00 := by decide

theorem witness_AcceptedByteIsStored :
    ((0x1C : Byte) ≠ 0xF0 ∧ (0x1C : Byte) ≠ 0x00) ∧
    ((0x80 : Byte) ≠ 0xF0 ∧ (0x80 : Byte) ≠ 0x00 ∧
      ({ defaultParams with backspaceCode := 0x80 } : Params).tableLen ≤ (0x80 : Byte).toNat ∧
      0x80 = ({ defaultParams with backspaceCode := 0x80 } : Params).backspaceCode) := by decide

theorem witness_ZeroByteForgetsTheLastKey : (0x1C : Byte) ≠ 0x00 ∧ (0x1C : Byte) ≠ 0xF0 := by decide

theorem witness_BytesOutsideTheTable :
    (defaultParams.tableLen ≤ (0x80 : Byte).toNat ∧ (0x80 : Byte) ≠ 0xF0 ∧ (0x80 : Byte) ≠ 0x00) ∧
    (0x80 : Byte) ≤ 0x80 ∧ (0x80 : Byte) ≤ 0xFF ∧ (0xFF : Byte) ≠ 0xF0 := by decide

theorem witness_ExtendedPrefixIsOrdinary :
    (0x1C : Byte) ≠ 0xE0 ∧ (0x5A : Byte) ≠ 0xF0 ∧ (0x5A : Byte) ≠ 0xE0 := by decide

theorem witness_OverlappingKeysAreAcceptedAgain :
    ((0x1C : Byte) ≠ 0xF0 ∧ (0x32 : Byte) ≠ 0xF0 ∧ (0x1C : Byte) ≠ 0x32 ∧ (0x1C : Byte) ≠ 0x00 ∧ (0x32 : Byte) ≠ 0x00) ∧
    (0x12 : Byte) ∈ ([0x12, 0x59, 0x14] : List Byte) ∧ (0x1C : Byte) ≠ 0x12 := by decide

theorem witness_PrintableRange :
    defaultParams.Wf ∧ lookupLut defaultParams 0x12 = some 0x00 ∧ defaultParams.enterSentinel ≠ 0x00 ∧
    0x12 ≠ defaultParams.backspaceCode := by decide

theorem witness_ReleasePairClearsLast : (0x1C : Byte) ≠ 0xF0 := by decide

theorem witness_SameByteTwice : (0x1C : Byte) ≠ 0xF0 ∧ (0x00 : Byte) ≠ 0x1C := by decide

/-- A taken release prefix, a taken release code, a taken make code, a rejected frame. -/
theorem witness_TranslatorRegistersAreWrittenByTakes :
    (∃ t, exec .take (st 0x7E0 11 true false 0x1C) = .next t) ∧
    (frameByte 0x7E0 = 0xF0 ∧ frameByte 0x438 ≠ 0xF0 ∧ waitingA.ready = true ∧ waitingA.pend = false ∧
      (waitingA.params.parityCheck = true → frameOk waitingA.shift = true)) ∧
    (∃ t, exec .take (st 0x438 11 true true 0x1C) = .next t) ∧ (∃ t, exec (.takeEdge true) waitingA = .next t) ∧
    ((checking (st 0x638 11 true false 0x1C)).params.parityCheck = true ∧ frameOk 0x638 = false) ∧
    (∃ t, exec .take (checking (st 0x638 11 true false 0x1C)) = .next t) :=
  ⟨⟨_, rfl⟩, by decide, ⟨_, rfl⟩, ⟨_, rfl⟩, by decide, ⟨_, rfl⟩⟩

theorem witness_ParityCheckDiscardsAndHunts :
    ((checking (st 0x638 11 true false 0x00)).params.parityCheck = true ∧
      (checking (st 0x638 11 true false 0x00)).ready = true ∧
      frameOk (checking (st 0x638 11 true false 0x00)).shift = false) ∧
    ((checking State.reset).params.parityCheck = true ∧ (checking State.reset).count = 0 ∧
      (checking State.reset).ready = false) := by decide

/-- Eleven EDGEs, the longest case, with a NOP among them. -/
theorem witness_ElevenEdgesMakeOneFrame :
    State.reset.count = 0 ∧ State.reset.ready = false ∧ State.reset.params.parityCheck = false ∧
    (∀ i ∈ .nop :: List.replicate 11 (Instr.edge true), i = .nop ∨ ∃ d, i = .edge d) ∧
    (edgeLevels (.nop :: List.replicate 11 (Instr.edge true))).length ≤ 11 := by decide

theorem witness_DroppedLevelsMisalignForGood :
    waitingA.ready = true ∧ waitingA.params.parityCheck = false ∧ 3 ≤ 11 ∧ 3 + 11 * 2 ≤ (List.replicate 25 true).length ∧
    11 ≤ 11 ∧ 11 + 11 * 1 ≤ (List.replicate 25 true).length := by decide

theorem witness_FramerIsASingleSlotMailbox :
    State.reset.params.parityCheck = false ∧ State.reset.Holds [] ∧ ([] : List Bool).length ≤ 11 ∧
    waitingA.params.parityCheck = false ∧ waitingA.Holds (wireFrame 0x1C false) ∧ (wireFrame 0x1C false).length ≤ 11 := by
  decide

theorem witness_OfferedByteIsStable :
    waitingA.ready = true ∧ ∀ i ∈ [Instr.nop, .edge true, .edge false], i = .nop ∨ ∃ d, i = .edge d := by decide

theorem witness_NothingMoreToTakeBeforeElevenEdges :
    waitingA.ready = true ∧ (∃ t, exec .take waitingA = .next t) ∧
    (edgeLevels (.take :: List.replicate 10 (.edge true))).length < 11 := ⟨rfl, ⟨_, rfl⟩, by decide⟩

theorem witness_KeyEventsAreTheTranslatorsOverTakenBytes :
    waitingA.params.parityCheck = false ∧ waitingA.AccumulatorOk ∧ ∀ i ∈ [Instr.take, .edge true], i ≠ .reset := by decide

theorem witness_TypedKeysComeOutInOrder :
    State.reset.AccumulatorOk ∧ State.reset.count = 0 ∧ State.reset.pend = false ∧ State.reset.last = 0x00 ∧
    ∀ b ∈ ([0x4B, 0x5A] : List Byte), b ≠ 0xF0 ∧ b ≠ 0x00 := by decide

/-- A level dropped while a frame waits, and a level stored at the start position. -/
theorem witness_FramingBitsAffectNothing :
    (waitingA.params.parityCheck = false ∧ waitingA.AccumulatorOk ∧ SameButFraming waitingA (st 0x239 11 true false 0x00) ∧
      SameOperation waitingA (.takeEdge true) (.takeEdge false) ∧ ∃ t, exec (.takeEdge true) waitingA = .next t) ∧
    (State.reset.AccumulatorOk ∧ SameButFraming State.reset State.reset ∧
      SameOperation State.reset (.edge true) (.edge false) ∧ ∃ t, exec (.edge true) State.reset = .next t) :=
  ⟨⟨by decide, by decide, by decide, .inr (.inr ⟨_, _, rfl, rfl, .inl rfl⟩), _, rfl⟩,
    by decide, by decide, .inr (.inl ⟨_, _, rfl, rfl, .inr (.inl rfl)⟩), _, rfl⟩

theorem witness_InvariantHoldsAtReset : defaultParams.Wf := test_wf_defaults

theorem witness_StepKeepsTheInvariant : waitingA.Inv ∧ ∃ t, step waitingA = .next t := ⟨by decide, _, rfl⟩

/-- A run of one step: the first level of a frame. -/
theorem witness_AccumulatorInvariantsOnEveryRun :
    ∃ s, Reachable s ∧ s.count.val = 1 ∧ s.shift = 0x001 :=
  ⟨_, .step _ _ (.start defaultParams [.word 0x3] test_wf_defaults) rfl, rfl, rfl⟩

theorem witness_OutNeverHoldsAnImpossibleCombination :
    (∃ t, exec .nop { waitingA with out := ⟨true, 0x1C, .insert, 0x61, false⟩ } = .next t) ∧
    ∃ s, Reachable s ∧ s.out.bv = false ∧ s.out.kind.code ≠ 0b01 ∧ s.params.parityCheck = false :=
  ⟨⟨_, rfl⟩, _, .start defaultParams [] test_wf_defaults, by decide, by decide, rfl⟩

theorem witness_NoStopOnAWellFormedState :
    waitingA.AccumulatorOk ∧ State.reset.AccumulatorOk ∧ Reachable (State.reset.setInputs []) :=
  ⟨by decide, by decide, .start defaultParams [] test_wf_defaults⟩

end Sys2Proof.Tests
end

section
/-! PROOFS of O11 and O49: what the CORE's operations can tell apart. No operation sees EDGE-DET's registers or the inputs
still to come; with the check off, none sees the start, parity and stop bits. -/

open Sys2Proof Sys2Proof.Machine

namespace Sys2Proof.Machine

/-! ### The CORE does not see what surrounds it (00_scope.md R5) -/

/-- Two states that differ at most in EDGE-DET's registers and in the inputs still to come. -/
def SameCore (s r : State) : Prop :=
  r = (s.setEdgeDet r.syncC r.syncD r.prevC).setInputs r.inputs

/-- States with one CORE state and one list of inputs have one core view. -/
theorem SameCore.coreView_eq {s r : State} (h : SameCore s r) (hi : r.inputs = s.inputs) : r.coreView = s.coreView := by
  unfold SameCore at h
  rw [h, hi]
  rfl

/-- Consuming an input and EDGE-DET's part of a cycle leave the CORE alone. -/
theorem SameCore.runEdgeDet_dropInput {s r : State} (h : SameCore s r) (c : PortSample) :
    SameCore (s.dropInput.runEdgeDet c) r.dropInput := by
  unfold SameCore at h
  rw [h]
  unfold State.runEdgeDet
  split <;> rfl

theorem edgeFramer_setEdgeDet_setInputs {d : Bool} {s t : State} (h : edgeFramer d s = .next t)
    (a b : List Bool) (c : Bool) (is : List Input) :
    edgeFramer d ((s.setEdgeDet a b c).setInputs is) = .next ((t.setEdgeDet a b c).setInputs is) := by
  rcases edgeFramer_cases d s with ⟨hr, e⟩ | ⟨hr, hh, e⟩ | ⟨hr, hh, hc, e⟩ | ⟨-, -, -, e⟩ <;> rw [e] at h <;> cases h
  · simp [edgeFramer, hr]
  · have hh' : ((s.setEdgeDet a b c).setInputs is).huntDrops d = true := hh
    simp [edgeFramer, hr, hh']
  · have hh' : ((s.setEdgeDet a b c).setInputs is).huntDrops d = false := hh
    simp only [edgeFramer, State.setInputs_ready, State.setEdgeDet_ready, hr, hh', State.setInputs_count,
      State.setEdgeDet_count, nextCount_of_lt _ hc, Bool.false_eq_true, if_false]
    rfl

theorem takeFramer_setEdgeDet_setInputs (s : State) (a b : List Bool) (c : Bool) (is : List Input) :
    takeFramer ((s.setEdgeDet a b c).setInputs is) = ((takeFramer s).setEdgeDet a b c).setInputs is := by
  rcases takeFramer_cases s with ⟨hr, e⟩ | ⟨hr, hp, hf, e⟩ | ⟨hr, hf, e⟩ <;> rw [e]
  · simp only [takeFramer, State.setInputs_ready, State.setEdgeDet_ready, hr]
    rfl
  · simp only [takeFramer, State.setInputs_ready, State.setEdgeDet_ready, hr, State.setInputs_params,
      State.setEdgeDet_params, hp, State.setInputs_shift, State.setEdgeDet_shift, hf]
    rfl
  · have hgood : (s.params.parityCheck && !frameOk s.shift) = false := by simpa using hf
    simp only [takeFramer, State.setInputs_ready, State.setEdgeDet_ready, hr, State.setInputs_params,
      State.setEdgeDet_params, State.setInputs_shift, State.setEdgeDet_shift, hgood]
    rfl

/-- No operation tells two states of one CORE state apart, or moves the inputs. -/
theorem SameCore.exec {i : Instr} {s t r : State} (h : SameCore s r) (hs : Machine.exec i s = .next t) :
    ∃ u, Machine.exec i r = .next u ∧ SameCore t u ∧ u.inputs = r.inputs := by
  unfold SameCore at h
  cases i with
  | reset => cases hs; rw [h]; exact ⟨_, rfl, rfl, rfl⟩
  | nop => cases hs; rw [h]; exact ⟨_, rfl, rfl, rfl⟩
  | edge d => rw [h]; exact ⟨_, edgeFramer_setEdgeDet_setInputs hs _ _ _ _, rfl, rfl⟩
  | take => cases hs; rw [h, exec_take, takeFramer_setEdgeDet_setInputs]; exact ⟨_, rfl, rfl, rfl⟩
  | takeEdge d =>
    rw [h, exec_takeEdge, takeFramer_setEdgeDet_setInputs]
    exact ⟨_, edgeFramer_setEdgeDet_setInputs hs _ _ _ _, rfl, rfl⟩

/-- No operation consumes an input: the step around it does. -/
theorem exec_inputs {i : Instr} {s t : State} (h : exec i s = .next t) : t.inputs = s.inputs := by
  obtain ⟨u, hu, -, hi⟩ := SameCore.exec (r := s) rfl h
  cases h.symm.trans hu
  exact hi

/-! ### EDGE-DET over a cycle -/

/-- Two states with the same parameters and the same EDGE-DET registers. -/
def SameEdgeDet (s t : State) : Prop :=
  t.params = s.params ∧ t.syncC = s.syncC ∧ t.syncD = s.syncD ∧ t.prevC = s.prevC

theorem SameEdgeDet.edgeDetAfter {s t : State} (h : SameEdgeDet s t) (c : PortSample) :
    SameEdgeDet (s.edgeDetAfter c) (t.edgeDetAfter c) := by
  obtain ⟨hp, hC, hD, -⟩ := h
  unfold State.edgeDetAfter
  split <;> simp [SameEdgeDet, State.clkS, hp, hC, hD]

/-- The words of a list of cycles depend on EDGE-DET's registers only. -/
theorem SameEdgeDet.cycleWords_eq (cs : List PortSample) {s t : State} (h : SameEdgeDet s t) :
    State.cycleWords cs t = State.cycleWords cs s := by
  induction cs generalizing s t with
  | nil => rfl
  | cons c cs ih =>
    have hword : t.cycleWord c = s.cycleWord c := by
      obtain ⟨hp, hC, hD, hv⟩ := h
      simp only [State.cycleWord, State.fallingEdge, State.clkS, State.dataS, hp, hC, hD, hv]
    simp only [State.cycleWords, hword, ih (h.edgeDetAfter c)]

/-- A cycle's word selects RESET exactly when rst = 1. -/
theorem decodeWord_cycleWord_eq_reset (c : PortSample) (s : State) :
    decodeWord (s.cycleWord c) = .reset ↔ c.rst = true := by
  unfold decodeWord State.cycleWord
  rw [opWord_rst]
  split
  · simp [*]
  · split <;> simp [*]

theorem SameEdgeDet.trans {s t u : State} (h : SameEdgeDet s t) (h' : SameEdgeDet t u) : SameEdgeDet s u := by
  obtain ⟨hp, hC, hD, hv⟩ := h
  obtain ⟨hp', hC', hD', hv'⟩ := h'
  exact ⟨hp'.trans hp, hC'.trans hC, hD'.trans hD, hv'.trans hv⟩

theorem edgeFramer_sameEdgeDet {d : Bool} {s t : State} (h : edgeFramer d s = .next t) : SameEdgeDet s t := by
  rw [edgeFramer_frame h]
  exact ⟨rfl, rfl, rfl, rfl⟩

theorem takeFramer_sameEdgeDet (s : State) : SameEdgeDet s (takeFramer s) := by
  obtain ⟨hC, hD, hv, -⟩ := takeFramer_frame s
  exact ⟨takeFramer_params s, hC, hD, hv⟩

/-- No operation but RESET writes EDGE-DET. -/
theorem exec_sameEdgeDet {i : Instr} {s t : State} (hi : i ≠ .reset) (h : exec i s = .next t) : SameEdgeDet s t := by
  cases i with
  | reset => exact absurd rfl hi
  | nop => cases h; exact ⟨rfl, rfl, rfl, rfl⟩
  | edge d => exact edgeFramer_sameEdgeDet (s := s.setOut Out.zero) h
  | take => cases h; exact takeFramer_sameEdgeDet s
  | takeEdge d => exact (takeFramer_sameEdgeDet s).trans (edgeFramer_sameEdgeDet h)

/-- A cycle leaves EDGE-DET as `edgeDetAfter` says, the RESET of a cycle with rst = 1 included. -/
theorem perform_cycle_sameEdgeDet {c : PortSample} {s t : State} (h : perform (.cycle c) s = .next t) :
    SameEdgeDet (s.edgeDetAfter c) t := by
  have hx : exec (decodeWord (s.cycleWord c)) (s.runEdgeDet c) = .next t := h
  unfold State.edgeDetAfter
  cases hr : c.rst with
  | true =>
    rw [(decodeWord_cycleWord_eq_reset c s).mpr hr] at hx
    cases hx
    simp [SameEdgeDet, State.runEdgeDet, hr]
  | false =>
    have hi : decodeWord (s.cycleWord c) ≠ .reset := by simp [decodeWord_cycleWord_eq_reset, hr]
    simpa [State.runEdgeDet, hr] using exec_sameEdgeDet hi hx

/-! ### The simulation of a FRONT-END run by a CORE run -/

theorem step_of_inputs_cons {s : State} {i : Input} {is : List Input} (h : s.inputs = i :: is) :
    step s = perform i s.dropInput := by
  simp [step, State.nextInput, h]

/-- A run of one step and more answers a next state through the state its first step answers. -/
theorem run_succ_next {n : Nat} {s t : State} (h : Host.Core.run core (n + 1) s = .next t) :
    ∃ s₁, step s = .next s₁ ∧ Host.Core.run core n s₁ = .next t := by
  cases hs : step s with
  | next s₁ => exact ⟨s₁, rfl, (run_succ_of_next hs).symm.trans h⟩
  | fault r => cases (run_succ_of_fault hs).symm.trans h
  | refused r => cases (run_succ_of_refused hs).symm.trans h

/-- One step of the simulation: a cycle on one side, the word EDGE-DET and the ports give in it on the other. -/
theorem SameCore.step_cycle {s r s₁ : State} {c : PortSample} {is js : List Input} (h : SameCore s r)
    (hs : s.inputs = .cycle c :: is) (hr : r.inputs = .word (s.cycleWord c) :: js) (hstep : step s = .next s₁) :
    ∃ r₁, step r = .next r₁ ∧ SameCore s₁ r₁ ∧ s₁.inputs = is ∧ r₁.inputs = js ∧ SameEdgeDet (s.edgeDetAfter c) s₁ := by
  rw [step_of_inputs_cons hs] at hstep
  have hx : Machine.exec (decodeWord (s.cycleWord c)) (s.dropInput.runEdgeDet c) = .next s₁ := hstep
  have hin : (s.dropInput.runEdgeDet c).inputs = is := by
    unfold State.runEdgeDet
    split <;> simp [hs]
  have hdrop : SameEdgeDet s s.dropInput := ⟨rfl, rfl, rfl, rfl⟩
  have hdet : SameEdgeDet (s.edgeDetAfter c) s₁ := (hdrop.edgeDetAfter c).trans (perform_cycle_sameEdgeDet hstep)
  obtain ⟨r₁, hr₁, hcore, hi⟩ := (h.runEdgeDet_dropInput c).exec hx
  refine ⟨r₁, ?_, hcore, (exec_inputs hx).trans hin, by simp [hi, hr], hdet⟩
  rw [step_of_inputs_cons hr]
  exact hr₁

/-- A run over cycles and the run over their words keep the CORE state equal, cycle by cycle. -/
theorem SameCore.run_cycles (cs : List PortSample) {s r t : State} {rest : List Input} (h : SameCore s r)
    (hs : s.inputs = cs.map Input.cycle ++ rest) (hr : r.inputs = (State.cycleWords cs s).map Input.word ++ rest)
    (hrun : Host.Core.run core cs.length s = .next t) :
    ∃ u : State, Host.Core.run core cs.length r = .next u ∧ SameCore t u ∧ u.inputs = t.inputs := by
  induction cs generalizing s r with
  | nil => cases hrun; exact ⟨r, rfl, h, hr.trans hs.symm⟩
  | cons c cs ih =>
    obtain ⟨s₁, hstep, hrest⟩ := run_succ_next hrun
    obtain ⟨r₁, hr₁, hcore, hsi, hri, hdet⟩ := h.step_cycle hs hr hstep
    rw [← hdet.cycleWords_eq cs] at hri
    obtain ⟨u, hu, hfin⟩ := ih hcore hsi hri hrest
    exact ⟨u, (run_succ_of_next hr₁).trans hu, hfin⟩

/-! ### Framing bits with the check off (00_scope.md R8) -/

/-- Levels written at one position keep the scan bytes equal when they are equal or the position is a framing one. -/
theorem frameByte_setBit_congr {f g : Frame} {k : Nat} {d e : Bool} (hk : k < 11) (hfg : frameByte g = frameByte f)
    (hde : d = e ∨ framingPosition k) : frameByte (setBit g k e) = frameByte (setBit f k d) := by
  refine BitVec.eq_of_getLsbD_eq fun j hj => ?_
  have hbit : g.getLsbD (j + 1) = f.getLsbD (j + 1) := by
    rw [← getLsbD_frameByte g j hj, ← getLsbD_frameByte f j hj, hfg]
  rw [getLsbD_frameByte _ j hj, getLsbD_frameByte _ j hj, getLsbD_setBit _ _ _ _ hk, getLsbD_setBit _ _ _ _ hk, hbit]
  rcases hde with rfl | hpos
  · rfl
  · have hne : j + 1 ≠ k := by unfold framingPosition at hpos; omega
    rw [if_neg hne, if_neg hne]

/-- The ports show no framing bit (10_state.md R31). -/
theorem SameButFraming.ports_eq {s t : State} (h : SameButFraming s t) : t.ports = s.ports := by
  obtain ⟨ht, hf⟩ := h
  rw [ht]
  simp only [State.ports, hf]

/-- The levels d and e, presented to the accumulator of s, differ only where the difference is a framing bit's or the
level is dropped. -/
abbrev SameLevel (s : State) (d e : Bool) : Prop :=
  d = e ∨ s.ready = true ∨ framingPosition s.count.val

theorem edgeFramer_sameButFraming {s t s' : State} {d e : Bool} (hp : s.params.parityCheck = false)
    (h : SameButFraming s t) (hl : SameLevel s d e) (hs : edgeFramer d s = .next s') :
    ∃ t', edgeFramer e t = .next t' ∧ SameButFraming s' t' := by
  obtain ⟨ht, hf⟩ := h
  generalize t.shift = f at ht hf
  subst ht
  rcases edgeFramer_cases d s with ⟨hr, hx⟩ | ⟨-, hh, -⟩ | ⟨hr, -, hc, hx⟩ | ⟨-, -, -, hx⟩
  case inr.inl => simp [State.huntDrops, hp] at hh
  all_goals rw [hx] at hs; cases hs
  · exact ⟨{ s with shift := f }, by simp [edgeFramer, hr], rfl, hf⟩
  · have hde : d = e ∨ framingPosition s.count.val := by simpa [SameLevel, hr] using hl
    refine ⟨s.setAccumulator (setBit f s.count.val e) ⟨s.count.val + 1, by omega⟩ (s.count.val + 1 == 11), ?_, rfl,
      frameByte_setBit_congr hc hf hde⟩
    simp [edgeFramer, State.huntDrops, hr, hp, hc, readyAt, frameBits, State.setAccumulator]

theorem takeFramer_sameButFraming {s t : State} (hp : s.params.parityCheck = false) (h : SameButFraming s t) :
    SameButFraming (takeFramer s) (takeFramer t) := by
  obtain ⟨ht, hf⟩ := h
  generalize t.shift = f at ht hf
  subst ht
  by_cases hr : s.ready = true
  · have heq : takeFramer { s with shift := f } = takeFramer s := by
      simp only [takeFramer, hr, hp, hf]
      rfl
    rw [heq]
    exact ⟨rfl, rfl⟩
  · simp [takeFramer, hr, SameButFraming, State.setOut, hf]

/-- What TAKE leaves puts a waiting frame's dropped level at the start position, and moves no other level. -/
theorem SameLevel.takeFramer {s : State} {d e : Bool} (h : SameLevel s d e) : SameLevel (Machine.takeFramer s) d e := by
  rcases takeFramer_accumulator s with ⟨-, hx⟩ | ⟨-, -, hc, -⟩
  · rw [hx]; exact h
  · exact .inr (.inr (.inl (by rw [hc]; rfl)))

/-- One step keeps two states apart in framing bits at most. -/
theorem exec_sameButFraming {s t s' : State} {i j : Instr} (hp : s.params.parityCheck = false)
    (h : SameButFraming s t) (hij : SameOperation s i j) (hs : exec i s = .next s') :
    ∃ t', exec j t = .next t' ∧ SameButFraming s' t' := by
  have hout : SameButFraming (s.setOut Out.zero) (t.setOut Out.zero) :=
    ⟨congrArg (State.setOut Out.zero) h.1, h.2⟩
  have edge {d e : Bool} (hl : SameLevel s d e) (hs : exec (.edge d) s = .next s') :
      ∃ t', exec (.edge e) t = .next t' ∧ SameButFraming s' t' :=
    edgeFramer_sameButFraming (s := s.setOut Out.zero) hp hout hl hs
  have takeEdge {d e : Bool} (hl : SameLevel s d e) (hs : exec (.takeEdge d) s = .next s') :
      ∃ t', exec (.takeEdge e) t = .next t' ∧ SameButFraming s' t' :=
    edgeFramer_sameButFraming (by rw [takeFramer_params, hp]) (takeFramer_sameButFraming hp h) hl.takeFramer hs
  rcases hij with rfl | ⟨d, e, rfl, rfl, hl⟩ | ⟨d, e, rfl, rfl, hl⟩
  · cases i with
    | reset =>
      cases hs
      refine ⟨_, rfl, ?_⟩
      rw [h.1]
      exact ⟨rfl, rfl⟩
    | nop => cases hs; exact ⟨_, rfl, hout⟩
    | edge d => exact edge (.inl rfl) hs
    | take => cases hs; exact ⟨_, rfl, takeFramer_sameButFraming hp h⟩
    | takeEdge d => exact takeEdge (.inl rfl) hs
  · exact edge (.inr hl) hs
  · exact takeEdge (.inr hl) hs

end Sys2Proof.Machine

namespace Sys2Proof.Proofs

/-- Settles O11, by the simulation of each cycle by the step on its word. -/
theorem frontEndRunRefinesCoreRun : Obligations.FrontEndRunRefinesCoreRun := by
  intro cs s t rest hrun
  have hcore : SameCore (s.setInputs (cs.map Input.cycle ++ rest))
      (s.setInputs ((State.cycleWords cs s).map Input.word ++ rest)) := rfl
  have hwords : State.cycleWords cs (s.setInputs (cs.map Input.cycle ++ rest)) = State.cycleWords cs s :=
    SameEdgeDet.cycleWords_eq cs ⟨rfl, rfl, rfl, rfl⟩
  obtain ⟨u, hu, hsame, hin⟩ := hcore.run_cycles cs rfl (by rw [hwords]; rfl) hrun
  exact ⟨u, hu, hsame.coreView_eq hin⟩

/-- Settles O49, by one step that keeps the two states apart in framing bits at most, which no port shows. -/
theorem framingBitsAffectNothing : Obligations.FramingBitsAffectNothing := by
  intro s t s' i j hp _ h hij hs
  obtain ⟨t', ht', h'⟩ := exec_sameButFraming hp h hij hs
  exact ⟨SameButFraming.ports_eq h, t', ht', h', SameButFraming.ports_eq h'⟩

end Sys2Proof.Proofs
end

section
/-! PROOFS of the state's obligations (10_state.md): what each operation leaves unchanged, what sets and clears READY, where the
model stops, and the invariant with what follows from it on every run. -/

open Sys2Proof Sys2Proof.Machine

namespace Sys2Proof.Machine

/-! ### The accumulator accepting a level (40_framer.md R104) -/

/-- The start-bit hunt drops a level at COUNT = 0 only. -/
theorem State.huntDrops_of_count_ne_zero {s : State} (d : Bool) (hc : s.count.val ≠ 0) : s.huntDrops d = false := by
  have h0 : s.count ≠ 0 := fun h => hc (by rw [h]; rfl)
  simp [State.huntDrops, h0]

/-- A frame that waits is not overwritten (R57). -/
theorem edgeFramer_of_ready {d : Bool} {s : State} (hr : s.ready = true) : edgeFramer d s = .next s := by
  simp [edgeFramer, hr]

theorem edgeFramer_eq_fault_iff (d : Bool) (s : State) :
    edgeFramer d s = .fault .accumulatorOverrun ↔ s.ready = false ∧ s.count.val = 11 := by
  rcases edgeFramer_cases d s with ⟨hr, e⟩ | ⟨-, hh, e⟩ | ⟨-, -, hc, e⟩ | ⟨hr, -, hc, e⟩
  · simp [e, hr]
  · have hc : s.count.val ≠ 11 := fun hc => by
      rw [State.huntDrops_of_count_ne_zero d (by omega)] at hh
      cases hh
    simp [e, hc]
  · simp [e, hc.ne]
  · simp [e, hr, hc]

theorem edgeFramer_fault_or_next (d : Bool) (s : State) :
    edgeFramer d s = .fault .accumulatorOverrun ∨ ∃ t, edgeFramer d s = .next t := by
  rcases edgeFramer_cases d s with ⟨-, e⟩ | ⟨-, -, e⟩ | ⟨-, -, _, e⟩ | ⟨-, -, -, e⟩
  · exact .inr ⟨_, e⟩
  · exact .inr ⟨_, e⟩
  · exact .inr ⟨_, e⟩
  · exact .inl e

/-- READY becomes 1 by the eleventh level only (10_state.md R25). -/
theorem edgeFramer_sets_ready {d : Bool} {s t : State} (h : edgeFramer d s = .next t) (hr : s.ready = false)
    (ht : t.ready = true) : s.count.val = 10 ∧ t.count.val = 11 := by
  rcases edgeFramer_cases d s with ⟨-, e⟩ | ⟨-, -, e⟩ | ⟨-, -, hc, e⟩ | ⟨-, -, -, e⟩ <;> rw [e] at h <;> cases h
  · simp [hr] at ht
  · simp [hr] at ht
  · have h11 : s.count.val + 1 = 11 := by simpa using ht
    exact ⟨by omega, h11⟩

/-- The eleventh level completes the frame. -/
theorem edgeFramer_of_count_ten {d : Bool} {s : State} (hr : s.ready = false) (hc : s.count.val = 10) :
    ∃ t, edgeFramer d s = .next t ∧ t.count.val = 11 ∧ t.ready = true := by
  have hh : s.huntDrops d = false := State.huntDrops_of_count_ne_zero d (by omega)
  exact ⟨s.setAccumulator (setBit s.shift s.count.val d) ⟨s.count.val + 1, by omega⟩ true,
    by simp [edgeFramer, hr, hh, hc, readyAt, frameBits], by simp [hc], rfl⟩

/-- A level stored at SHIFT[COUNT] moves no other bit (40_framer.md R113 (c)). -/
theorem edgeFramer_shift_of_ne {d : Bool} {s t : State} (h : edgeFramer d s = .next t) {k : Nat}
    (hk : k ≠ s.count.val) : t.shift.getLsbD k = s.shift.getLsbD k := by
  rcases edgeFramer_cases d s with ⟨-, e⟩ | ⟨-, -, e⟩ | ⟨-, -, hc, e⟩ | ⟨-, -, -, e⟩ <;> rw [e] at h <;> cases h
  · rfl
  · rfl
  · rw [State.setAccumulator_shift, getLsbD_setBit _ _ _ _ hc, if_neg hk]

theorem edgeFramer_translator {d : Bool} {s t : State} (h : edgeFramer d s = .next t) :
    t.pend = s.pend ∧ t.last = s.last := by
  rw [edgeFramer_frame h]
  exact ⟨rfl, rfl⟩

theorem edgeFramer_out {d : Bool} {s t : State} (h : edgeFramer d s = .next t) : t.out = s.out := by
  rw [edgeFramer_frame h]
  rfl

/-! ### The operations by READY -/

/-- With nothing to take, TAKE only zeroes OUT. -/
theorem takeFramer_of_not_ready {s : State} (hr : s.ready = false) : takeFramer s = s.setOut Out.zero := by
  simp [takeFramer, hr]

/-- With nothing to take, an operation but RESET zeroes OUT, and EDGE and TAKE_EDGE then present their level. -/
theorem exec_cases_of_not_ready {i : Instr} {s : State} (hi : i ≠ .reset) (hr : s.ready = false) :
    exec i s = .next (s.setOut Out.zero) ∨
    ∃ d, (i = .edge d ∨ i = .takeEdge d) ∧ exec i s = edgeFramer d (s.setOut Out.zero) := by
  cases i with
  | reset => exact absurd rfl hi
  | nop => exact .inl rfl
  | edge d => exact .inr ⟨d, .inl rfl, rfl⟩
  | take => exact .inl (by rw [exec_take, takeFramer_of_not_ready hr])
  | takeEdge d => exact .inr ⟨d, .inr rfl, by rw [exec_takeEdge, takeFramer_of_not_ready hr]⟩

/-- TAKE leaves nothing ready (40_framer.md R106). -/
theorem takeFramer_ready (s : State) : (takeFramer s).ready = false := by
  rcases takeFramer_accumulator s with ⟨hr, e⟩ | ⟨-, -, -, hr⟩
  · rw [e]; exact hr
  · exact hr

/-- The EDGE half of a TAKE_EDGE with a frame to take stores at most the first level of the next frame. -/
theorem exec_takeEdge_ready_of_ready {d : Bool} {s t : State} (hr : s.ready = true)
    (h : exec (.takeEdge d) s = .next t) : t.ready = false := by
  rcases takeFramer_accumulator s with ⟨hr', -⟩ | ⟨-, -, hc, -⟩
  · simp [hr] at hr'
  · by_contra ht
    have h10 := (edgeFramer_sets_ready h (takeFramer_ready s) (by simpa using ht)).1
    simp [hc] at h10

/-! ### PEND and LAST (10_state.md R27, R28) -/

theorem exec_translator_of_nop_or_edge {i : Instr} {s t : State} (hi : i = .nop ∨ i = .edge false ∨ i = .edge true)
    (h : exec i s = .next t) : t.pend = s.pend ∧ t.last = s.last := by
  rcases hi with rfl | rfl | rfl
  · cases h; exact ⟨rfl, rfl⟩
  · exact edgeFramer_translator (s := s.setOut Out.zero) h
  · exact edgeFramer_translator (s := s.setOut Out.zero) h

/-- TAKE_EDGE leaves PEND and LAST as its TAKE does. -/
theorem exec_translator_of_take {i : Instr} {s t : State} (hi : i = .take ∨ i = .takeEdge false ∨ i = .takeEdge true)
    (h : exec i s = .next t) : t.pend = (takeFramer s).pend ∧ t.last = (takeFramer s).last := by
  rcases hi with rfl | rfl | rfl
  · cases h; exact ⟨rfl, rfl⟩
  · exact edgeFramer_translator h
  · exact edgeFramer_translator h

/-- With no good frame to take, TAKE leaves the translator alone. -/
theorem takeFramer_translator_of_no_byte {s : State}
    (h : s.ready = false ∨ (s.params.parityCheck = true ∧ frameOk s.shift = false)) :
    (takeFramer s).pend = s.pend ∧ (takeFramer s).last = s.last := by
  rcases takeFramer_cases s with ⟨-, e⟩ | ⟨-, -, -, e⟩ | ⟨hr, hok, -⟩
  · rw [e]; exact ⟨rfl, rfl⟩
  · rw [e]; exact ⟨rfl, rfl⟩
  · rcases h with hr' | ⟨hp, hf⟩
    · simp [hr] at hr'
    · simp [hok hp] at hf

/-- TAKE hands a good frame's byte to the translator. -/
theorem takeFramer_translator_of_byte {s : State} (hr : s.ready = true)
    (hok : s.params.parityCheck = true → frameOk s.shift = true) :
    ((takeFramer s).pend, (takeFramer s).last) = (translateByte s.params s.pend s.last (frameByte s.shift)).2 := by
  rcases takeFramer_cases s with ⟨hr', -⟩ | ⟨-, hp, hf, -⟩ | ⟨-, -, e⟩
  · simp [hr] at hr'
  · simp [hok hp] at hf
  · rw [e]; rfl

/-! ### Each operation's part in the invariant (10_state.md R26, R29, R30; 41_translator.md R142)

An operation is RESET, or it zeroes OUT or takes, and then may present a level. -/

/-- What holds of the reset values, of OUT zeroed and after a TAKE, and is kept when a level is presented, holds after
every operation. -/
theorem exec_induction {P : State → Prop} {i : Instr} {s t : State} (h : exec i s = .next t)
    (reset : P ((State.initial s.params).setInputs s.inputs)) (zeroOut : P (s.setOut Out.zero))
    (take : P (takeFramer s)) (edge : ∀ {d u v}, P u → edgeFramer d u = .next v → P v) : P t := by
  cases i with
  | reset => cases h; exact reset
  | nop => cases h; exact zeroOut
  | edge d => exact edge zeroOut h
  | take => cases h; exact take
  | takeEdge d => exact edge take h

/-- An empty accumulator is well formed. -/
theorem State.accumulatorOk_of_empty {s : State} (hs : s.shift = 0) (hc : s.count = 0) (hr : s.ready = false) :
    s.AccumulatorOk := by
  simp [State.AccumulatorOk, hs, hc, hr]

theorem edgeFramer_accumulatorOk {d : Bool} {s t : State} (hs : s.AccumulatorOk) (h : edgeFramer d s = .next t) :
    t.AccumulatorOk := by
  rcases edgeFramer_cases d s with ⟨-, e⟩ | ⟨-, -, e⟩ | ⟨-, -, hc, e⟩ | ⟨-, -, -, e⟩ <;> rw [e] at h <;> cases h
  · exact hs
  · exact hs
  · refine ⟨by simp, fun i hi => ?_⟩
    have hlt : s.count.val < i.val := hi
    rw [State.setAccumulator_shift, getLsbD_setBit _ _ _ _ hc, if_neg hlt.ne']
    exact hs.2 i hlt.le

theorem takeFramer_accumulatorOk {s : State} (hs : s.AccumulatorOk) : (takeFramer s).AccumulatorOk := by
  rcases takeFramer_accumulator s with ⟨-, e⟩ | ⟨-, hf, hc, hr⟩
  · rw [e]; exact hs
  · exact State.accumulatorOk_of_empty hf hc hr

theorem State.outOk_of_zero {s : State} (h : s.out = Out.zero) : s.OutOk := by
  simp [State.OutOk, h, Out.zero]

/-- An event's character is that of an INSERT, which is printable (41_translator.md R141, R153). -/
theorem translateByte_char (p : Params) (pend : Bool) (last b : Byte) :
    ((translateByte p pend last b).1.kind ≠ .insert → (translateByte p pend last b).1.char = 0x00) ∧
    ((translateByte p pend last b).1.kind = .insert → isPrintable p (translateByte p pend last b).1.char = true) := by
  rcases translate_cases p pend last b with ⟨-, e⟩ | ⟨-, -, e⟩ | ⟨-, -, -, e⟩ | ⟨-, -, -, e⟩ <;> rw [e]
  case inr.inr.inr =>
    rcases acceptEvent_cases p b with ⟨-, e⟩ | ⟨-, -, e⟩ | ⟨-, -, c, -, hc, e⟩ | ⟨-, -, -, e⟩ <;> rw [e]
    case inr.inr.inl => exact ⟨fun h => absurd rfl h, fun _ => hc⟩
    all_goals exact ⟨fun _ => rfl, nofun⟩
  all_goals exact ⟨fun _ => rfl, nofun⟩

/-- TAKE leaves a consistent OUT, whatever stood there. -/
theorem takeFramer_outOk (s : State) : (takeFramer s).OutOk := by
  rcases takeFramer_cases s with ⟨-, e⟩ | ⟨-, hp, -, e⟩ | ⟨-, -, e⟩ <;> rw [e]
  · exact State.outOk_of_zero rfl
  · exact ⟨fun _ => ⟨rfl, rfl⟩, fun _ => rfl, nofun, fun _ => ⟨hp, rfl⟩⟩
  · obtain ⟨hchar, hprint⟩ := translateByte_char s.params s.pend s.last (frameByte s.shift)
    exact ⟨nofun, hchar, hprint, nofun⟩

theorem noneCode_ne_releasePrefix : noneCode ≠ releasePrefix := by decide

/-- The translator never stores RELEASE_PREFIX (41_translator.md R142). -/
theorem translateByte_last_ne_releasePrefix {p : Params} {pend : Bool} {last b : Byte} (hl : last ≠ releasePrefix) :
    (translateByte p pend last b).2.2 ≠ releasePrefix := by
  rcases translate_cases p pend last b with ⟨-, e⟩ | ⟨-, -, e⟩ | ⟨-, -, -, e⟩ | ⟨hb, -, -, e⟩ <;> rw [e]
  · exact hl
  · exact noneCode_ne_releasePrefix
  · exact hl
  · exact hb

theorem takeFramer_translatorOk {s : State} (hs : s.TranslatorOk) : (takeFramer s).TranslatorOk := by
  rcases takeFramer_cases s with ⟨-, e⟩ | ⟨-, -, -, e⟩ | ⟨-, -, e⟩ <;> rw [e]
  · exact hs
  · exact hs
  · exact translateByte_last_ne_releasePrefix (p := s.params) (pend := s.pend) hs

theorem SameEdgeDet.edgeDetOk {s t : State} (h : SameEdgeDet s t) (hs : s.EdgeDetOk) : t.EdgeDetOk := by
  obtain ⟨hp, hC, hD, -⟩ := h
  simpa only [State.EdgeDetOk, hp, hC, hD] using hs

/-! ### The invariant, along the operations, the step and the runs -/

theorem State.initial_inv {p : Params} (inputs : List Input) (hp : p.Wf) :
    ((State.initial p).setInputs inputs).Inv :=
  ⟨hp, State.accumulatorOk_of_empty rfl rfl rfl, State.outOk_of_zero rfl,
    noneCode_ne_releasePrefix, by simp [State.EdgeDetOk]⟩

theorem State.Inv.setOut_zero {s : State} (hs : s.Inv) : (s.setOut Out.zero).Inv := by
  obtain ⟨hp, hacc, -, htr, hdet⟩ := hs
  exact ⟨hp, hacc, State.outOk_of_zero rfl, htr, hdet⟩

theorem State.Inv.takeFramer {s : State} (hs : s.Inv) : (Machine.takeFramer s).Inv := by
  obtain ⟨hp, hacc, -, htr, hdet⟩ := hs
  exact ⟨by rwa [takeFramer_params], takeFramer_accumulatorOk hacc, takeFramer_outOk s, takeFramer_translatorOk htr,
    (takeFramer_sameEdgeDet s).edgeDetOk hdet⟩

theorem State.Inv.edgeFramer {d : Bool} {s t : State} (hs : s.Inv) (h : Machine.edgeFramer d s = .next t) : t.Inv := by
  obtain ⟨hp, hacc, hout, htr, hdet⟩ := hs
  replace hacc := edgeFramer_accumulatorOk hacc h
  rw [edgeFramer_frame h] at hacc ⊢
  exact ⟨hp, hacc, hout, htr, hdet⟩

theorem State.Inv.exec {i : Instr} {s t : State} (hs : s.Inv) (h : Machine.exec i s = .next t) : t.Inv :=
  exec_induction h (State.initial_inv _ hs.1) hs.setOut_zero hs.takeFramer fun hu => hu.edgeFramer

/-- EDGE-DET's part of a cycle keeps the synchronisers' lengths and moves nothing else the invariant reads. -/
theorem State.Inv.runEdgeDet {s : State} (hs : s.Inv) (c : PortSample) : (s.runEdgeDet c).Inv := by
  unfold State.runEdgeDet
  split
  · exact hs
  · obtain ⟨hp, hacc, hout, htr, hC, hD⟩ := hs
    exact ⟨hp, hacc, hout, htr, length_shiftStage _ _ _ hC, length_shiftStage _ _ _ hD⟩

theorem State.Inv.perform {i : Input} {s t : State} (hs : s.Inv) (h : Machine.perform i s = .next t) : t.Inv := by
  cases i with
  | word w => exact hs.exec h
  | cycle c => exact (hs.runEdgeDet c).exec h

/-- The invariant does not read the inputs still to come. -/
theorem State.Inv.step {s t : State} (hs : s.Inv) (h : Machine.step s = .next t) : t.Inv :=
  State.Inv.perform (s := s.dropInput) hs h

theorem Reachable.inv {s : State} (h : Reachable s) : s.Inv := by
  induction h with
  | start p inputs hp => exact State.initial_inv inputs hp
  | step s t _ hst ih => exact ih.step hst

end Sys2Proof.Machine

namespace Sys2Proof.Proofs

/-- Settles O51, by the invariant's parts along `exec` and EDGE-DET. -/
theorem stepKeepsTheInvariant : Obligations.StepKeepsTheInvariant :=
  fun _ _ hs h => hs.step h

/-- Settles O52, by the invariant of every reachable state. -/
theorem accumulatorInvariantsOnEveryRun : Obligations.AccumulatorInvariantsOnEveryRun := by
  intro s h
  obtain ⟨-, ⟨hready, hshift⟩, -⟩ := h.inv
  exact ⟨Nat.le_of_lt_succ s.count.isLt, hready, fun i hi h10 => hshift ⟨i, by omega⟩ hi⟩

/-- Settles O53, by the invariant's part on OUT. -/
theorem outNeverHoldsAnImpossibleCombination : Obligations.OutNeverHoldsAnImpossibleCombination := by
  refine ⟨fun i s t hi h => ?_, fun s h => ?_, rfl, rfl, rfl, rfl, rfl⟩
  · rcases hi with rfl | rfl | rfl | rfl
    · cases h; rfl
    · cases h; rfl
    · exact edgeFramer_out (s := s.setOut Out.zero) h
    · exact edgeFramer_out (s := s.setOut Out.zero) h
  · obtain ⟨-, -, ⟨hbv, hchar, -, hferr⟩, -⟩ := h.inv
    refine ⟨fun hb => ?_, fun hk => hchar fun hins => hk (by rw [hins]; rfl), fun hp => ?_⟩
    · obtain ⟨hbyte, hkind⟩ := hbv hb
      exact ⟨by rw [hkind]; rfl, hbyte⟩
    · by_contra hf
      have hcheck := (hferr (by simpa using hf)).1
      simp [hp] at hcheck

/-- Settles O19, by the frames of the accumulator's two operations. -/
theorem operationsLeaveTheRestUnchanged : Obligations.OperationsLeaveTheRestUnchanged := by
  intro i s t h
  refine ⟨exec_params h, exec_inputs h, fun a => by rw [exec_params h], fun hi => (exec_sameEdgeDet hi h).2,
    fun hi => exec_translator_of_nop_or_edge hi h, ?_, fun hi hr => ?_, ?_, fun hr d hi k hk => ?_⟩
  · rintro rfl
    cases h
    exact ⟨rfl, rfl, rfl⟩
  · rcases exec_cases_of_not_ready hi hr with e | ⟨d, -, e⟩ <;> rw [e] at h
    · cases h; exact ⟨rfl, rfl, rfl⟩
    · obtain ⟨hpend, hlast⟩ := edgeFramer_translator h
      exact ⟨hpend, hlast, edgeFramer_out h⟩
  · rintro rfl hr
    rw [exec_take, takeFramer_of_not_ready hr] at h
    cases h
    exact ⟨rfl, rfl, rfl⟩
  · have hx : edgeFramer d (s.setOut Out.zero) = .next t := by
      rcases hi with rfl | rfl
      · exact h
      · rwa [exec_takeEdge, takeFramer_of_not_ready hr] at h
    exact edgeFramer_shift_of_ne hx hk

/-- Settles O20, by what the accumulator answers to a level. -/
theorem onlyOverrunStops : Obligations.OnlyOverrunStops := by
  intro i s
  cases i with
  | reset => simp
  | nop => simp
  | edge d => exact ⟨by simp [edgeFramer_eq_fault_iff], edgeFramer_fault_or_next d _⟩
  | take => simp
  | takeEdge d =>
    refine ⟨?_, edgeFramer_fault_or_next d _⟩
    rcases takeFramer_accumulator s with ⟨-, e⟩ | ⟨hr, -, hc, -⟩
    · simp [edgeFramer_eq_fault_iff, e]
    · simp [edgeFramer_eq_fault_iff, hr, hc]

/-- Settles O22, by the eleventh level and by what TAKE leaves. -/
theorem readyIsSetByTheEleventhLevelOnly : Obligations.ReadyIsSetByTheEleventhLevelOnly := by
  refine ⟨fun i s t h => ⟨fun hr ht => ?_, fun hr => ?_⟩, fun d s hr hc => ?_, fun d s hr => ?_, rfl⟩
  · have hi : i ≠ .reset := by
      rintro rfl
      cases h
      simp at ht
    rcases exec_cases_of_not_ready hi hr with e | ⟨d, hd, e⟩ <;> rw [e] at h
    · cases h
      simp [hr] at ht
    · exact ⟨⟨d, hd⟩, edgeFramer_sets_ready (s := s.setOut Out.zero) h hr ht⟩
  · cases i with
    | reset => cases h; simp
    | nop => cases h; simp [hr]
    | edge d =>
      rw [exec_edge, edgeFramer_of_ready (s := s.setOut Out.zero) hr] at h
      cases h
      simp [hr]
    | take => cases h; simp [takeFramer_ready]
    | takeEdge d => simp [exec_takeEdge_ready_of_ready hr h]
  · exact edgeFramer_of_count_ten (s := s.setOut Out.zero) hr hc
  · exact ⟨_, edgeFramer_of_ready (s := s.setOut Out.zero) hr, rfl, rfl, hr⟩

/-- Settles O39, by the translator's branches over the byte a TAKE hands to it. -/
theorem translatorRegistersAreWrittenByTakes : Obligations.TranslatorRegistersAreWrittenByTakes := by
  refine ⟨fun i s t h => ⟨?_, fun hi => exec_translator_of_nop_or_edge hi h, fun hi => ?_⟩, fun p => ?_, rfl, rfl⟩
  · rintro rfl
    cases h
    exact ⟨rfl, rfl⟩
  · obtain ⟨hpend, hlast⟩ := exec_translator_of_take hi h
    rw [hpend, hlast]
    refine ⟨takeFramer_translator_of_no_byte, fun hr hok => ?_⟩
    have hx := takeFramer_translator_of_byte hr hok
    rcases translate_cases s.params s.pend s.last (frameByte s.shift) with
      ⟨hb, e⟩ | ⟨hb, hp, e⟩ | ⟨hb, hp, hl, e⟩ | ⟨hb, hp, -, e⟩ <;> rw [e] at hx <;> obtain ⟨hP, hL⟩ := Prod.mk.inj hx
    · exact ⟨fun _ => ⟨hP, hL⟩, fun hne => absurd hb hne, fun hne => absurd hb hne⟩
    · exact ⟨fun h0 => absurd h0 hb, fun _ _ => ⟨hP, hL⟩, fun _ h0 => by simp [hp] at h0⟩
    · exact ⟨fun h0 => absurd h0 hb, fun _ h0 => by simp [hp] at h0, fun _ _ => ⟨hP, hL.trans hl.symm⟩⟩
    · exact ⟨fun h0 => absurd h0 hb, fun _ h0 => by simp [hp] at h0, fun _ _ => ⟨hP, hL⟩⟩
  · rfl

/-- Settles O13: the reset values as R32 lists them. -/
theorem resetStateFields : Obligations.ResetStateFields :=
  ⟨rfl, rfl, rfl, rfl, rfl, rfl, rfl, rfl, rfl, rfl, rfl⟩

/-- Settles O50, the default parameters being allowed ones. -/
theorem invariantHoldsAtReset : Obligations.InvariantHoldsAtReset :=
  ⟨State.initial_inv [] defaultParams_wf, fun _ inputs hp => State.initial_inv inputs hp⟩

/-- Settles O55, by the place of the scan byte in SHIFT. -/
theorem outputPortsShowTheState : Obligations.OutputPortsShowTheState :=
  fun s => ⟨rfl, fun j hj => getLsbD_frameByte s.shift j hj, rfl, rfl, rfl, rfl, rfl⟩

end Sys2Proof.Proofs
end

section
/-! PROOFS of the memory's obligations (20_memory.md): the accumulator as a single-slot mailbox of levels, what no edge can
overwrite or complete early, runs over listed words, and the bounds-checked read of the LUT. -/

open Sys2Proof Sys2Proof.Machine

namespace Sys2Proof.Machine

/-! ### The frame of a list of levels (20_memory.md R54) -/

/-- Storing the next level at SHIFT[COUNT] appends it to the frame's levels. -/
theorem setBit_frameOf_length {levels : List Bool} (d : Bool) (h : levels.length < 11) :
    setBit (frameOf levels) levels.length d = frameOf (levels ++ [d]) := by
  refine BitVec.eq_of_getLsbD_eq fun k hk => ?_
  rw [getLsbD_setBit _ _ _ _ h, getLsbD_frameOf _ k hk, getLsbD_frameOf _ k hk]
  rcases lt_trichotomy k levels.length with hlt | rfl | hgt
  · rw [if_neg hlt.ne, List.getD_append _ _ _ _ hlt]
  · rw [if_pos rfl, List.getD_append_right _ _ _ _ le_rfl, Nat.sub_self, List.getD_cons_zero]
  · rw [if_neg hgt.ne', List.getD_eq_default _ _ hgt.le, List.getD_eq_default _ _ (by simpa using hgt)]

/-- The scan byte of a frame is that of its levels 1 to 8 (40_framer.md R102). -/
theorem frameByte_frameOf (levels : List Bool) : frameByte (frameOf levels) = byteOf levels := by
  refine BitVec.eq_of_getLsbD_eq fun j hj => ?_
  rw [getLsbD_frameByte _ j hj, getLsbD_frameOf _ _ (by omega), byteOf, BitVec.getLsbD_ofNat, levelsToNat_testBit]
  simp [hj, List.getD_eq_getElem?_getD]

/-! ### The accumulator is the mailbox (20_memory.md R59) -/

theorem boxAccept_of_full {d : Bool} {levels : List Bool} (h : levels.length = 11) : boxAccept d levels = levels :=
  if_pos h

theorem boxAccept_of_lt {d : Bool} {levels : List Bool} (h : levels.length < 11) :
    boxAccept d levels = levels ++ [d] :=
  if_neg h.ne

theorem boxTake_of_full {levels : List Bool} (h : levels.length = 11) :
    boxTake levels = (some (byteOf levels), []) :=
  if_pos h

theorem boxTake_of_not_full {levels : List Bool} (h : levels.length ≠ 11) : boxTake levels = (none, levels) :=
  if_neg h

/-- An empty accumulator holds no levels. -/
theorem State.holds_nil_of_empty {s : State} (hf : s.shift = 0) (hc : s.count = 0) (hr : s.ready = false) :
    s.Holds [] := by
  simp [State.Holds, hf, hc, hr, frameOf, levelsToNat]

/-- Holding levels reads nothing but the accumulator. -/
theorem State.Holds.setOut {s : State} {levels : List Bool} (h : s.Holds levels) (o : Out) :
    (s.setOut o).Holds levels := h

/-- COUNT has no value above 11 (10_state.md R24), so no more levels are held. -/
theorem State.Holds.length_le {s : State} {levels : List Bool} (h : s.Holds levels) : levels.length ≤ 11 := by
  obtain ⟨-, hc, -⟩ := h
  exact hc ▸ Nat.le_of_lt_succ s.count.isLt

theorem takenBytes_cons (o : Out) (outs : List Out) : takenBytes (o :: outs) = takenBytes [o] ++ takenBytes outs :=
  List.filterMap_append (l := [o])

/-- An accumulator that holds levels accepts a level as the mailbox does. -/
theorem State.Holds.edgeFramer {s : State} {levels : List Bool} (h : s.Holds levels)
    (hp : s.params.parityCheck = false) (d : Bool) :
    ∃ t, Machine.edgeFramer d s = .next t ∧ t.Holds (boxAccept d levels) := by
  obtain ⟨hf, hc, hr⟩ := h
  rcases edgeFramer_cases d s with ⟨hr1, e⟩ | ⟨-, hh, -⟩ | ⟨-, -, hlt, e⟩ | ⟨hr0, -, h11, -⟩
  · rw [boxAccept_of_full (hr.mp hr1)]
    exact ⟨s, e, hf, hc, hr⟩
  · simp [State.huntDrops, hp] at hh
  · have hroom : levels.length < 11 := hc ▸ hlt
    rw [boxAccept_of_lt hroom]
    refine ⟨_, e, ?_, by simp [hc], by simp [hc]⟩
    rw [State.setAccumulator_shift, hf, hc, setBit_frameOf_length d hroom]
  · have hr1 : s.ready = true := hr.mpr (hc ▸ h11)
    simp [hr0] at hr1

/-- An accumulator that holds levels is taken as the mailbox is. -/
theorem State.Holds.takeFramer {s : State} {levels : List Bool} (h : s.Holds levels)
    (hp : s.params.parityCheck = false) :
    (Machine.takeFramer s).Holds (boxTake levels).2 ∧
      takenBytes [(Machine.takeFramer s).out] = (boxTake levels).1.toList := by
  obtain ⟨hf, hc, hr⟩ := h
  rcases takeFramer_cases s with ⟨hr0, e⟩ | ⟨-, hp1, -⟩ | ⟨hr1, -, e⟩
  · have hpart : levels.length ≠ 11 := fun hfull => by simp [hr.mpr hfull] at hr0
    rw [e, boxTake_of_not_full hpart]
    exact ⟨State.Holds.setOut ⟨hf, hc, hr⟩ _, rfl⟩
  · simp [hp] at hp1
  · rw [e, boxTake_of_full (hr.mp hr1), hf, frameByte_frameOf]
    exact ⟨State.holds_nil_of_empty rfl rfl rfl, rfl⟩

/-- One operation on the accumulator is that operation on the mailbox. -/
theorem State.Holds.exec {s : State} {levels : List Bool} (h : s.Holds levels) (hp : s.params.parityCheck = false)
    (i : Instr) :
    ∃ t, Machine.exec i s = .next t ∧ t.Holds (boxStep i levels).2 ∧
      takenBytes [t.out] = (boxStep i levels).1.toList := by
  cases i with
  | reset => exact ⟨_, rfl, State.holds_nil_of_empty rfl rfl rfl, rfl⟩
  | nop => exact ⟨_, rfl, h.setOut _, rfl⟩
  | edge d =>
    obtain ⟨t, ht, hbox⟩ := (h.setOut Out.zero).edgeFramer hp d
    exact ⟨t, ht, hbox, by rw [edgeFramer_out ht]; rfl⟩
  | take => exact ⟨_, rfl, h.takeFramer hp⟩
  | takeEdge d =>
    obtain ⟨hleft, hout⟩ := h.takeFramer hp
    obtain ⟨t, ht, hbox⟩ := hleft.edgeFramer (by rw [takeFramer_params, hp]) d
    exact ⟨t, ht, hbox, by rw [edgeFramer_out ht, hout]; rfl⟩

/-! ### What edges cannot do: overwrite a waiting frame, or complete one early (R57, R60) -/

/-- While a frame waits, NOP and EDGE write OUT only. -/
theorem exec_of_ready {i : Instr} {s : State} (hr : s.ready = true) (hi : i = .nop ∨ ∃ d, i = .edge d) :
    exec i s = .next (s.setOut Out.zero) := by
  rcases hi with rfl | ⟨d, rfl⟩
  · rfl
  · exact edgeFramer_of_ready (s := s.setOut Out.zero) hr

theorem execAll_of_ready {is : List Instr} {s : State} (hr : s.ready = true)
    (his : ∀ i ∈ is, i = .nop ∨ ∃ d, i = .edge d) : ∃ o, execAll is s = .next (s.setOut o) := by
  induction is generalizing s with
  | nil => exact ⟨s.out, rfl⟩
  | cons i is ih =>
    obtain ⟨hi, his⟩ := List.forall_mem_cons.mp his
    obtain ⟨o, ho⟩ := ih (s := s.setOut Out.zero) hr his
    exact ⟨o, (execAll_cons_of_next (exec_of_ready hr hi)).trans ho⟩

/-- With fewer than ten levels held, one more leaves the frame unfinished. -/
theorem edgeFramer_of_count_lt_ten (d : Bool) {s : State} (hr : s.ready = false) (hc : s.count.val < 10) :
    ∃ t, edgeFramer d s = .next t ∧ t.ready = false ∧ t.count.val ≤ s.count.val + 1 := by
  rcases edgeFramer_cases d s with ⟨hr1, -⟩ | ⟨-, -, e⟩ | ⟨-, -, _, e⟩ | ⟨-, -, h11, -⟩
  · simp [hr] at hr1
  · exact ⟨s, e, hr, Nat.le_succ _⟩
  · exact ⟨_, e, beq_false_of_ne (by omega), le_rfl⟩
  · omega

theorem edgeLevels_cons (i : Instr) (is : List Instr) : edgeLevels (i :: is) = edgeLevels [i] ++ edgeLevels is :=
  List.filterMap_append (l := [i])

/-- An operation whose level, if any, is not the eleventh reports nothing and leaves nothing ready. -/
theorem exec_of_not_ready {i : Instr} {s : State} (hr : s.ready = false)
    (hc : s.count.val + (edgeLevels [i]).length < 11) :
    ∃ t, exec i s = .next t ∧ t.ready = false ∧ t.count.val ≤ s.count.val + (edgeLevels [i]).length ∧
      t.out = Out.zero := by
  by_cases hi : i = .reset
  · subst hi
    exact ⟨_, rfl, rfl, Nat.zero_le _, rfl⟩
  · rcases exec_cases_of_not_ready hi hr with e | ⟨d, hd, e⟩
    · exact ⟨_, e, hr, Nat.le_add_right _ _, rfl⟩
    · have hlevel : (edgeLevels [i]).length = 1 := by rcases hd with rfl | rfl <;> rfl
      rw [hlevel] at hc ⊢
      obtain ⟨t, ht, hready, hcount⟩ := edgeFramer_of_count_lt_ten (s := s.setOut Out.zero) d hr
        (Nat.lt_of_succ_lt_succ hc)
      exact ⟨t, e.trans ht, hready, hcount, edgeFramer_out ht⟩

/-- Until the eleventh level no step of a run reports anything. -/
theorem execAll_of_not_ready {is : List Instr} {s : State} (hr : s.ready = false)
    (hc : s.count.val + (edgeLevels is).length < 11) :
    (∃ u, execAll is s = .next u) ∧ ∀ o ∈ execOuts is s, o = Out.zero := by
  induction is generalizing s with
  | nil => exact ⟨⟨s, rfl⟩, nofun⟩
  | cons i is ih =>
    rw [edgeLevels_cons, List.length_append] at hc
    obtain ⟨t, ht, hready, hcount, hout⟩ := exec_of_not_ready (i := i) hr (by omega)
    rw [execAll_cons_of_next ht, execOuts_cons_of_next ht, List.forall_mem_cons]
    obtain ⟨hrun, houts⟩ := ih hready (by omega)
    exact ⟨hrun, hout, houts⟩

theorem takenBytes_of_forall_zero {outs : List Out} (h : ∀ o ∈ outs, o = Out.zero) : takenBytes outs = [] := by
  refine List.filterMap_eq_nil_iff.mpr fun o ho => ?_
  rw [h o ho]
  rfl

/-! ### Operations do not see the inputs still to come (R61) -/

theorem edgeFramer_setInputs {d : Bool} {s t : State} (h : edgeFramer d s = .next t) (is : List Input) :
    edgeFramer d (s.setInputs is) = .next (t.setInputs is) := by
  have hx := edgeFramer_setEdgeDet_setInputs h s.syncC s.syncD s.prevC is
  rw [edgeFramer_frame h] at hx ⊢
  exact hx

theorem takeFramer_setInputs (s : State) (is : List Input) :
    takeFramer (s.setInputs is) = (takeFramer s).setInputs is := by
  obtain ⟨hC, hD, hv, -⟩ := takeFramer_frame s
  have hself : (takeFramer s).setEdgeDet s.syncC s.syncD s.prevC = takeFramer s := by rw [← hC, ← hD, ← hv]; rfl
  exact (takeFramer_setEdgeDet_setInputs s s.syncC s.syncD s.prevC is).trans (by rw [hself])

theorem exec_setInputs_of_next {i : Instr} {s t : State} (h : exec i s = .next t) (is : List Input) :
    exec i (s.setInputs is) = .next (t.setInputs is) := by
  cases i with
  | reset => cases h; rfl
  | nop => cases h; rfl
  | edge d => exact edgeFramer_setInputs (s := s.setOut Out.zero) h is
  | take => cases h; exact congrArg Host.Outcome.next (takeFramer_setInputs s is)
  | takeEdge d =>
    rw [exec_takeEdge, takeFramer_setInputs]
    exact edgeFramer_setInputs h is

theorem execAll_cons_of_fault {i : Instr} {is : List Instr} {s : State} {r : Fault} (h : exec i s = .fault r) :
    execAll (i :: is) s = .fault r := by
  simp only [execAll, h]

end Sys2Proof.Machine

namespace Sys2Proof.Proofs

/-- The one fault is decided by the accumulator, not by the inputs. -/
theorem exec_setInputs_of_fault {i : Instr} {s : State} (h : exec i s = .fault .accumulatorOverrun) (is : List Input) :
    exec i (s.setInputs is) = .fault .accumulatorOverrun :=
  (onlyOverrunStops i (s.setInputs is)).1.mpr ((onlyOverrunStops i s).1.mp h)

/-- A run over listed words, from the state that lists them. -/
theorem run_words (ws : List OpWord) {s : State} {rest : List Input} (hs : s.inputs = ws.map Input.word ++ rest) :
    Host.Core.run core ws.length s = execAll (ws.map decodeWord) (s.setInputs rest) := by
  induction ws generalizing s with
  | nil =>
    subst hs
    rfl
  | cons w ws ih =>
    have hstep : step s = exec (decodeWord w) s.dropInput := step_of_inputs_cons hs
    rcases (onlyOverrunStops (decodeWord w) s.dropInput).2 with hf | ⟨t, ht⟩
    · have hf' : exec (decodeWord w) (s.setInputs rest) = .fault .accumulatorOverrun := exec_setInputs_of_fault hf rest
      exact (run_succ_of_fault (hstep.trans hf)).trans (execAll_cons_of_fault hf').symm
    · have ht' : exec (decodeWord w) (s.setInputs rest) = .next (t.setInputs rest) := exec_setInputs_of_next ht rest
      have hin : t.inputs = ws.map Input.word ++ rest := by simp [exec_inputs ht, hs]
      have hrun : Host.Core.run core (ws.length + 1) s = Host.Core.run core ws.length t :=
        run_succ_of_next (hstep.trans ht)
      exact hrun.trans ((ih hin).trans (execAll_cons_of_next ht').symm)

/-- Settles O44, by the simulation of each operation on the accumulator by that operation on the mailbox. -/
theorem framerIsASingleSlotMailbox : Obligations.FramerIsASingleSlotMailbox := by
  intro is s levels hp h _
  induction is generalizing s levels with
  | nil => exact ⟨rfl, rfl, s, rfl, h⟩
  | cons i is ih =>
    obtain ⟨t, ht, hbox, hout⟩ := h.exec hp i
    obtain ⟨hbytes, hlen, hend⟩ := ih t _ (by rw [exec_params ht, hp]) hbox hbox.length_le
    rw [execOuts_cons_of_next ht, execAll_cons_of_next ht, takenBytes_cons, hout, hbytes]
    exact ⟨rfl, congrArg (· + 1) hlen, hend⟩

/-- Settles O8, by what each operation does whatever inputs stand after its word. -/
theorem wordRunIsOperationRun : Obligations.WordRunIsOperationRun :=
  fun ws s rest => run_words ws (s := s.setInputs (ws.map Input.word ++ rest)) rfl

/-- Settles O45: the run writes OUT only. -/
theorem offeredByteIsStable : Obligations.OfferedByteIsStable := by
  intro is s hr his
  obtain ⟨o, ho⟩ := execAll_of_ready hr his
  exact ⟨_, ho, rfl, hr, rfl, rfl, hr⟩

/-- Settles O46, by counting the levels from the accumulator TAKE has cleared. -/
theorem nothingMoreToTakeBeforeElevenEdges : Obligations.NothingMoreToTakeBeforeElevenEdges := by
  intro is s t hr h hlen
  cases h
  rcases takeFramer_accumulator s with ⟨hr0, -⟩ | ⟨-, -, hc, hr'⟩
  · simp [hr] at hr0
  · obtain ⟨hrun, hzero⟩ := execAll_of_not_ready (is := is) hr' (by simpa [hc] using hlen)
    exact ⟨hrun, takenBytes_of_forall_zero hzero, fun o ho => by rw [hzero o ho]; rfl⟩

/-- Settles O25, by the bounds check and by the branches of an accepted byte. -/
theorem lookupIsBoundsChecked : Obligations.LookupIsBoundsChecked := by
  refine fun p b => ⟨fun h => if_pos h, fun h => if_neg (by omega), fun c hc hs hprint hb => ?_⟩
  rcases acceptEvent_cases p b with ⟨h, -⟩ | ⟨-, h, -⟩ | ⟨-, -, c', hc', hp', -⟩ | ⟨-, -, -, e⟩
  · exact absurd (Option.some.inj (hc.symm.trans h)) hs
  · exact absurd h hb
  · cases hc.symm.trans hc'
    simp [hprint] at hp'
  · exact e

end Sys2Proof.Proofs
end

section
/-! PROOFS of the encoding's obligations (30_encoding.md): a frame sent level by level and taken, the pseudo-operations, the
operation words and their lines, and decoding what was encoded. -/

open Sys2Proof Sys2Proof.Machine

namespace Sys2Proof

/-! ### The five patterns of the operation word (R71), over its 16 values -/

theorem and_eq_iff_decodeWord_reset : ∀ w : OpWord, w &&& 0b1000 = 0b1000 ↔ decodeWord w = .reset := by decide

theorem and_eq_iff_decodeWord_nop : ∀ w : OpWord, w &&& 0b1110 = 0b0000 ↔ decodeWord w = .nop := by decide

theorem and_eq_iff_decodeWord_edge :
    ∀ (w : OpWord) (d : Bool), (w &&& 0b1110 = 0b0010 ∧ w.getLsbD 0 = d) ↔ decodeWord w = .edge d := by decide

theorem and_eq_iff_decodeWord_take : ∀ w : OpWord, w &&& 0b1110 = 0b0100 ↔ decodeWord w = .take := by decide

theorem and_eq_iff_decodeWord_takeEdge :
    ∀ (w : OpWord) (d : Bool), (w &&& 0b1110 = 0b0110 ∧ w.getLsbD 0 = d) ↔ decodeWord w = .takeEdge d := by decide

theorem decodeWord_of_bit_three {w : OpWord} (h : w.getLsbD 3 = true) : decodeWord w = .reset :=
  if_pos h

/-! ### Decoding what was encoded (R70, R71) -/

theorem decodeWord_encode (i : Instr) : decodeWord (encode i) = i := by
  cases i with
  | reset => rfl
  | nop => rfl
  | edge d => cases d <;> rfl
  | take => rfl
  | takeEdge d => cases d <;> rfl

/-- A row tells a word by the bits its operation does not ignore. -/
theorem selects_encode_decodeWord :
    ∀ r ∈ opTable, ∀ w : OpWord, r.selects (encode (decodeWord w)) = r.selects w := by decide

theorem tableRow_statement (i : Instr) : Laws.TableRow.Statement i := by
  cases i with
  | reset => exact Laws.TableRow.reset
  | nop => exact Laws.TableRow.nop
  | edge d => exact Laws.TableRow.edge d
  | take => exact Laws.TableRow.take
  | takeEdge d => exact Laws.TableRow.takeEdge d

/-- Every 4-bit word is accepted as a number (R73). -/
theorem decodeBits_toNat (w : OpWord) : decodeBits w.toNat = .ok (decodeWord w) := by
  rw [decodeBits, if_pos w.isLt, BitVec.ofNat_toNat, BitVec.setWidth_eq]

theorem decodeBytes_setWidth (w : OpWord) (rest : List Byte) :
    decodeBytes (w.setWidth 8 :: rest) = .ok (decodeWord w, rest) := by
  have hw : (w.setWidth 8).toNat = w.toNat := BitVec.toNat_setWidth_of_le (by omega)
  simp only [decodeBytes, hw, decodeBits_toNat]

theorem decodeTableWord_toNat (w : OpWord) {nbits : Nat} (h : 4 ≤ nbits) :
    decodeTableWord nbits w.toNat = some (decodeWord w) := by
  have hw : w.toNat % 2 ^ nbits = w.toNat :=
    Nat.mod_eq_of_lt (w.isLt.trans_le (Nat.pow_le_pow_right Nat.two_pos h))
  simp only [decodeTableWord, hw, decodeBits_toNat]

end Sys2Proof

namespace Sys2Proof.Machine

/-! ### Lines (R76) -/

theorem mem_allInstrs (i : Instr) : i ∈ allInstrs := by
  cases i with
  | reset => decide
  | nop => decide
  | edge d => cases d <;> decide
  | take => decide
  | takeEdge d => cases d <;> decide

theorem parseLine_lineOf (i : Instr) : parseLine (lineOf i) = some i :=
  (by decide : ∀ i ∈ allInstrs, parseLine (lineOf i) = some i) i (mem_allInstrs i)

theorem semicolon_not_mem_lineOf (i : Instr) : ';' ∉ lineOf i :=
  (by decide : ∀ i ∈ allInstrs, ';' ∉ lineOf i) i (mem_allInstrs i)

/-- A comment does not change what a line reads as. -/
theorem parseLine_append_comment {line : List Char} (h : ';' ∉ line) (comment : List Char) :
    parseLine (line ++ [';'] ++ comment) = parseLine line := by
  have hall : ∀ c ∈ line, (c != ';') = true := fun c hc => bne_iff_ne.mpr fun e => h (e ▸ hc)
  have hstrip : stripLine (line ++ [';'] ++ comment) = stripLine line := by
    rw [stripLine, stripLine, List.append_assoc, List.takeWhile_append_of_pos hall, List.takeWhile_eq_self_iff.mpr hall]
    simp
  rw [parseLine, parseLine, hstrip]

/-! ### The keyboard frame (R74, R77) -/

theorem oddParity_eq_not_xor (b : Byte) :
    oddParity b = !(b.getLsbD 0 ^^ b.getLsbD 1 ^^ b.getLsbD 2 ^^ b.getLsbD 3 ^^ b.getLsbD 4 ^^ b.getLsbD 5 ^^
      b.getLsbD 6 ^^ b.getLsbD 7) := by
  simp [oddParity, dataBits]

/-- The frame of b, as SHIFT holds it. -/
theorem frameOf_wireFrame (b : Byte) (p : Bool) :
    frameOf (wireFrame b p) = 0x400#11 ||| (if p then 0x200#11 else 0#11) ||| (b.setWidth 11 <<< 1) := by
  refine BitVec.eq_of_getLsbD_eq fun k hk => ?_
  rw [getLsbD_frameOf _ k hk]
  interval_cases k <;> cases p <;> simp [wireFrame, dataBits]

/-- The scan byte of the frame of b is b (20_memory.md R54). -/
theorem frameByte_frameOf_wireFrame (b : Byte) (p : Bool) : frameByte (frameOf (wireFrame b p)) = b := by
  refine BitVec.eq_of_getLsbD_eq fun j hj => ?_
  rw [getLsbD_frameByte _ j hj, getLsbD_frameOf _ _ (by omega)]
  interval_cases j <;> rfl

/-- The frame of b with odd parity passes the frame check (40_framer.md R103). -/
theorem frameOk_frameOf_wireFrame (b : Byte) : frameOk (frameOf (wireFrame b (oddParity b))) = true := by
  simp (disch := omega) only [frameOk, frameXor, getLsbD_frameOf]
  simp [wireFrame, dataBits, oddParity_eq_not_xor]

/-! ### A run of EDGEs into the accumulator -/

/-- With COUNT = 0 a well-formed accumulator holds no level (10_state.md R26). -/
theorem State.AccumulatorOk.holds_nil {s : State} (h : s.AccumulatorOk) (hc : s.count = 0) : s.Holds [] := by
  obtain ⟨hready, hshift⟩ := h
  have hf : s.shift = 0 := BitVec.eq_of_getLsbD_eq fun k hk => by
    rw [hshift ⟨k, hk⟩ (by simp [hc])]
    exact BitVec.getLsbD_zero.symm
  have hr : s.ready = false := by simpa [hc] using hready
  exact State.holds_nil_of_empty hf hc hr

/-- After the levels held, the start-bit hunt drops none of the levels to come: a frame begins with 0
(40_framer.md R112 (b)). -/
def NoHunt (levels ds : List Bool) : Prop := levels = [] → ds.head? ≠ some true

/-- An EDGE the hunt does not drop stores its level, and writes OUT and the accumulator only. -/
theorem State.Holds.exec_edge {s : State} {levels ds : List Bool} {d : Bool} (h : s.Holds levels)
    (hlen : levels.length < 11) (hhunt : NoHunt levels (d :: ds)) :
    ∃ t, Machine.exec (.edge d) s = .next t ∧ t.Holds (levels ++ [d]) ∧
      t = (s.setAccumulator t.shift t.count t.ready).setOut t.out := by
  obtain ⟨hf, hc, hr⟩ := h
  rcases edgeFramer_cases d (s.setOut Out.zero) with ⟨hr1, -⟩ | ⟨-, hh, -⟩ | ⟨-, -, hlt, e⟩ | ⟨-, -, h11, -⟩
  · exact absurd (hr.mp hr1) hlen.ne
  · by_cases hnil : levels = []
    · have hd : d = false := by simpa [NoHunt, hnil] using hhunt
      simp [State.huntDrops, hd] at hh
    · rw [State.huntDrops_of_count_ne_zero d (by simpa [hc] using hnil)] at hh
      cases hh
  · refine ⟨_, e, ⟨?_, by simp [hc], by simp [hc]⟩, rfl⟩
    rw [State.setAccumulator_shift, State.setOut_shift, State.setOut_count, hf, hc, setBit_frameOf_length d hlen]
  · exact absurd (hc.symm.trans h11) hlen.ne

/-- `BITS ds` appends its levels to those held, as far as a frame goes, and writes OUT and the accumulator only. -/
theorem State.Holds.execAll_expandBits {ds : List Bool} {s : State} {levels : List Bool} (h : s.Holds levels)
    (hlen : levels.length + ds.length ≤ 11) (hhunt : NoHunt levels ds) :
    ∃ t, execAll (expandBits ds) s = .next t ∧ t.Holds (levels ++ ds) ∧
      t = (s.setAccumulator t.shift t.count t.ready).setOut t.out := by
  induction ds generalizing s levels with
  | nil => exact ⟨s, rfl, by rwa [List.append_nil], rfl⟩
  | cons d ds ih =>
    rw [List.length_cons] at hlen
    obtain ⟨u, hu, hold, hframe⟩ := h.exec_edge (by omega) hhunt
    obtain ⟨t, ht, hold', hframe'⟩ := ih hold (by simp; omega) (fun hnil => by simp at hnil)
    refine ⟨t, (execAll_cons_of_next hu).trans ht, by simpa using hold', ?_⟩
    rw [hframe] at hframe'
    exact hframe'

/-- `FRAME b` from COUNT = 0 fills the accumulator with the frame of b, with the frame check off or on. -/
theorem execAll_expandFrame (b : Byte) {s : State} (h : s.AccumulatorOk) (hc : s.count = 0) :
    ∃ t, execAll (expandFrame b) s = .next t ∧ t.Holds (wireFrame b (oddParity b)) ∧
      t = (s.setAccumulator t.shift t.count t.ready).setOut t.out :=
  (h.holds_nil hc).execAll_expandBits (ds := wireFrame b (oddParity b)) le_rfl nofun

/-- TAKE of the frame of b reports b, with the frame check off or on. -/
theorem State.Holds.takeFramer_wireFrame {s : State} {b : Byte} (h : s.Holds (wireFrame b (oddParity b))) :
    Machine.takeFramer s = s.clearAccumulator.report b := by
  obtain ⟨hf, -, hr⟩ := h
  rcases takeFramer_cases s with ⟨hr0, -⟩ | ⟨-, -, hbad, -⟩ | ⟨-, -, e⟩
  · rw [hr.mpr rfl] at hr0
    cases hr0
  · rw [hf, frameOk_frameOf_wireFrame] at hbad
    cases hbad
  · rw [e, hf, frameByte_frameOf_wireFrame]

end Sys2Proof.Machine

namespace Sys2Proof.Proofs

/-- Settles O6: FRAME b leaves the frame of b in the accumulator, and TAKE reports its byte. -/
theorem frameRoundTrip : Obligations.FrameRoundTrip := by
  intro b s hacc hc
  obtain ⟨t, ht, hold, hframe⟩ := execAll_expandFrame b hacc hc
  refine ⟨t.clearAccumulator.report b, ?_, ?_⟩
  · rw [← hold.takeFramer_wireFrame]
    exact execAll_append_of_next ht
  · rw [hframe]
    exact ⟨rfl, rfl⟩

/-- Settles O5, by the expansions and by the frame the EDGEs of FRAME b leave. -/
theorem pseudoOperationsExpand : Obligations.PseudoOperationsExpand := by
  refine ⟨fun levels => ?_, fun b p => rfl, fun b => rfl, fun b => rfl, fun n => rfl, fun b s hacc hc => ?_⟩
  · exact List.map_congr_left fun d _ => by cases d <;> rfl
  · obtain ⟨t, ht, ⟨hf, hcount, hready⟩, -⟩ := execAll_expandFrame b hacc hc
    exact ⟨t, ht, Fin.ext hcount, hready.mpr rfl, hf.trans (frameOf_wireFrame b _)⟩

/-- Settles O1, by the five patterns and by each operation's one row. -/
theorem operationWordsSelectOneOperation : Obligations.OperationWordsSelectOneOperation := by
  refine ⟨fun w => ⟨and_eq_iff_decodeWord_reset w, and_eq_iff_decodeWord_nop w, and_eq_iff_decodeWord_edge w,
    and_eq_iff_decodeWord_take w, and_eq_iff_decodeWord_takeEdge w⟩, fun w => ?_, by decide⟩
  rw [← tableRow_statement (decodeWord w)]
  exact congrArg _ (List.filter_congr fun r hr => (selects_encode_decodeWord r hr w).symm)

/-- Settles O2: words of one pattern decode to one operation, and a step on a word reads nothing else of it. -/
theorem ignoredBitsDoNotMatter : Obligations.IgnoredBitsDoNotMatter := by
  refine ⟨decodeBits_toNat, fun w v h s => ?_, fun s => Nat.le_of_lt_succ s.count.isLt⟩
  have hwv : decodeWord w = decodeWord v := by
    rcases h with ⟨hw, hv⟩ | ⟨hw, hv⟩ | ⟨hw, hv⟩
    · rw [decodeWord_of_bit_three hw, decodeWord_of_bit_three hv]
    · rw [(and_eq_iff_decodeWord_nop w).mp hw, (and_eq_iff_decodeWord_nop v).mp hv]
    · rw [(and_eq_iff_decodeWord_take w).mp hw, (and_eq_iff_decodeWord_take v).mp hv]
  rw [perform, perform, hwv]

/-- Settles O3, by the seven lines and by what a comment leaves of a line. -/
theorem linesAndTheirWords : Obligations.LinesAndTheirWords := by
  refine ⟨by decide, by decide, fun i comment => ?_⟩
  rw [parseLine_append_comment (semicolon_not_mem_lineOf i), parseLine_lineOf]

/-- Settles O4, by what decoding does with each form of a word. -/
theorem encodeThenDecode : Obligations.EncodeThenDecode := by
  refine ⟨fun i _ => ?_, fun n hn => if_neg (Nat.not_lt.mpr hn), rfl⟩
  have hword := decodeWord_encode i
  refine ⟨hword, ?_, fun rest => ?_, fun nbits h => ?_⟩
  · rw [decodeBits_toNat, hword]
  · rw [decodeBytes_setWidth, hword]
  · rw [decodeTableWord_toNat _ h, hword]

end Sys2Proof.Proofs
end

section
/-! PROOFS of the framer's obligations (40_framer.md), the front end: EDGE-DET against the history of its lines. -/

open Sys2Proof Sys2Proof.Machine

namespace Sys2Proof.Machine

/-! ### EDGE-DET's synchronisers hold their line's history (R100) -/

/-- A line seen one cycle later is one cycle further back. -/
theorem lineBefore_succ_succ (samples : List Bool) (n k : Nat) :
    lineBefore samples (n + 1) (k + 1) = lineBefore samples n k := by
  simp [lineBefore]

theorem lineBefore_one_succ {samples : List Bool} {k : Nat} {level : Bool} (h : samples[k]? = some level) :
    lineBefore samples 1 (k + 1) = level := by
  simp [lineBefore, h]

/-- At the start of cycle k, stage i of a synchroniser of n stages holds the line's level of i + 1 cycles before. -/
def SyncHolds (samples : List Bool) (k n : Nat) (sync : List Bool) : Prop :=
  ∀ i < n, sync.getD i true = lineBefore samples (i + 1) k

theorem syncHolds_replicate (samples : List Bool) (n : Nat) : SyncHolds samples 0 n (List.replicate n true) := by
  intro i hi
  simp [lineBefore, hi]

/-- A cycle shifts the level it samples into the history. -/
theorem SyncHolds.shiftStage {samples sync : List Bool} {k n : Nat} {level : Bool} (h : SyncHolds samples k n sync)
    (hk : samples[k]? = some level) : SyncHolds samples (k + 1) n (shiftStage n sync level) := by
  intro i hi
  have hstage : (Machine.shiftStage n sync level).getD i true = (level :: sync).getD i true := by
    simp [Machine.shiftStage, List.getD_eq_getElem?_getD, List.getElem?_take_of_lt hi]
  rw [hstage]
  cases i with
  | zero => exact (lineBefore_one_succ hk).symm
  | succ i => rw [List.getD_cons_succ, h i (by omega), lineBefore_succ_succ]

theorem SyncHolds.lastStage {samples sync : List Bool} {k n : Nat} (h : SyncHolds samples k n sync) (hn : 1 ≤ n) :
    lastStage n sync = lineBefore samples n k := by
  rw [Machine.lastStage, h (n - 1) (by omega), Nat.sub_add_cancel hn]

/-- At the start of cycle k, EDGE-DET holds the history of both lines. -/
structure State.HoldsLines (cs : List PortSample) (k : Nat) (s : State) : Prop where
  clock : SyncHolds (cs.map PortSample.kbdClk) k s.params.syncStages s.syncC
  data : SyncHolds (cs.map PortSample.kbdData) k s.params.syncStages s.syncD
  prev : s.prevC = lineBefore (cs.map PortSample.kbdClk) (s.params.syncStages + 1) k

theorem State.initial_holdsLines (p : Params) (cs : List PortSample) : (State.initial p).HoldsLines cs 0 where
  clock := syncHolds_replicate _ _
  data := syncHolds_replicate _ _
  prev := rfl

theorem State.HoldsLines.clockEdgeDet {cs : List PortSample} {k : Nat} {s : State} {c : PortSample}
    (h : s.HoldsLines cs k) (hn : 1 ≤ s.params.syncStages) (hk : cs[k]? = some c) :
    (s.clockEdgeDet c).HoldsLines cs (k + 1) where
  clock := h.clock.shiftStage (by simp [hk])
  data := h.data.shiftStage (by simp [hk])
  prev := (h.clock.lastStage hn).trans (lineBefore_succ_succ _ _ _).symm

/-- The cycles from the k-th on start with EDGE-DET holding the history so far, and give the remaining words. -/
theorem exists_holdsLines_cycleWords_drop {cs : List PortSample} {s : State} (hn : 1 ≤ s.params.syncStages)
    (hs : s.HoldsLines cs 0) (hrst : ∀ c ∈ cs, c.rst = false) {k : Nat} (hk : k ≤ cs.length) :
    ∃ u : State, u.params = s.params ∧ u.HoldsLines cs k ∧
      (State.cycleWords cs s).drop k = State.cycleWords (cs.drop k) u := by
  induction k with
  | zero => exact ⟨s, rfl, hs, rfl⟩
  | succ k ih =>
    obtain ⟨u, hp, hu, hwords⟩ := ih (by omega)
    have hc : cs[k]? = some cs[k] := List.getElem?_eq_getElem hk
    have hafter : u.edgeDetAfter cs[k] = u.clockEdgeDet cs[k] := by
      simp [State.edgeDetAfter, hrst cs[k] (List.getElem_mem hk)]
    refine ⟨u.clockEdgeDet cs[k], hp, hu.clockEdgeDet (hp ▸ hn) hc, ?_⟩
    rw [← List.tail_drop, hwords, List.drop_eq_getElem_cons hk, State.cycleWords, List.tail_cons, hafter]

/-- The word of a cycle with rst = 0, by its bits (30_encoding.md R70). -/
theorem cycleWord_bits (c : PortSample) (s : State) (hr : c.rst = false) :
    ((s.cycleWord c).getLsbD 1 = true ↔ s.prevC = true ∧ s.clkS = false) ∧ (s.cycleWord c).getLsbD 0 = s.dataS ∧
      (s.cycleWord c).getLsbD 2 = c.take ∧ (s.cycleWord c).getLsbD 3 = false := by
  refine ⟨?_, opWord_d _ _ _ _, opWord_tk _ _ _ _, (opWord_rst _ _ _ _).trans hr⟩
  rw [State.cycleWord, opWord_eg]
  simp [hr, State.fallingEdge]

/-- A synchroniser of the right length has a last stage, and reads as it. -/
theorem getElem?_last_eq_some_lastStage {sync : List Bool} {n : Nat} (h : sync.length = n) (hn : 1 ≤ n) :
    sync[n - 1]? = some (lastStage n sync) := by
  rw [lastStage, List.getD_eq_getElem?_getD, List.getElem?_eq_getElem (by omega), Option.getD_some]

theorem shiftStage_eq_cons {n : Nat} (hn : 1 ≤ n) (sync : List Bool) (level : Bool) :
    shiftStage n sync level = level :: sync.take (n - 1) :=
  List.take_cons hn

end Sys2Proof.Machine

namespace Sys2Proof.Proofs

/-- Settles O9, by the history of the lines in EDGE-DET's registers, kept cycle by cycle. -/
theorem edgeDetectorFindsFallingEdges : Obligations.EdgeDetectorFindsFallingEdges := by
  refine ⟨fun s c ⟨hC, hD⟩ hn hr => ?_, fun p cs k hn hrst hk => ?_, by decide⟩
  · obtain ⟨heg, hd, -⟩ := cycleWord_bits c s hr
    have hafter : s.edgeDetAfter c = s.clockEdgeDet c := by simp [State.edgeDetAfter, hr]
    rw [getElem?_last_eq_some_lastStage hC hn, getElem?_last_eq_some_lastStage hD hn, hafter, hd, Option.some_inj]
    exact ⟨heg, rfl, shiftStage_eq_cons hn _ _, shiftStage_eq_cons hn _ _, rfl⟩
  · obtain ⟨u, hp, hu, hwords⟩ := exists_holdsLines_cycleWords_drop (s := State.initial p) hn
      (State.initial_holdsLines p cs) hrst hk.le
    have hpn : u.params.syncStages = p.syncStages := congrArg Params.syncStages hp
    have hword : (State.cycleWords cs (State.initial p))[k]? = some (u.cycleWord cs[k]) := by
      rw [← List.head?_drop, hwords, List.drop_eq_getElem_cons hk]
      rfl
    obtain ⟨heg, hd, htk, hrs⟩ := cycleWord_bits cs[k] u (hrst _ (List.getElem_mem hk))
    rw [hu.prev, State.clkS, hu.clock.lastStage (hpn ▸ hn), hpn] at heg
    rw [State.dataS, hu.data.lastStage (hpn ▸ hn), hpn] at hd
    refine ⟨_, hword, heg, hd, fun c hc => ?_, hrs⟩
    obtain rfl : cs[k] = c := Option.some.inj ((List.getElem?_eq_getElem hk).symm.trans hc)
    exact htk

end Sys2Proof.Proofs
end

section
/-! PROOFS of the framer's obligations (40_framer.md), the operations: the step, and what NOP, EDGE, TAKE and TAKE_EDGE do. -/

open Sys2Proof Sys2Proof.Machine

namespace Sys2Proof.Machine

/-! ### The accumulator accepting a level (R104, R113) -/

theorem State.huntDrops_eq_true_iff (d : Bool) (s : State) :
    s.huntDrops d = true ↔ s.params.parityCheck = true ∧ s.count = 0 ∧ d = true := by
  simp [State.huntDrops, and_assoc]

theorem State.huntDrops_eq_false_iff (d : Bool) (s : State) :
    s.huntDrops d = false ↔ ¬(s.params.parityCheck = true ∧ s.count = 0 ∧ d = true) := by
  rw [← Bool.not_eq_true, State.huntDrops_eq_true_iff]

/-- A level that is not dropped is stored at SHIFT[COUNT] while there is room. -/
theorem edgeFramer_of_room {d : Bool} {s : State} (hr : s.ready = false) (hh : s.huntDrops d = false)
    (hc : s.count.val < 11) :
    edgeFramer d s = .next (s.setAccumulator (setBit s.shift s.count.val d) ⟨s.count.val + 1, by omega⟩
      (s.count.val + 1 == 11)) := by
  rcases edgeFramer_cases d s with ⟨hr1, -⟩ | ⟨-, hh1, -⟩ | ⟨-, -, _, e⟩ | ⟨-, -, h11, -⟩
  · simp [hr] at hr1
  · simp [hh] at hh1
  · exact e
  · omega

/-- The start-bit hunt drops a level whether or not a frame waits. -/
theorem edgeFramer_of_huntDrops {d : Bool} {s : State} (hh : s.huntDrops d = true) : edgeFramer d s = .next s := by
  simp [edgeFramer, hh]

/-- COUNT is kept, or counted up from 10 at most (R113 (a)). -/
theorem edgeFramer_count {d : Bool} {s t : State} (h : edgeFramer d s = .next t) :
    t.count.val = s.count.val ∨ (s.count.val ≤ 10 ∧ t.count.val = s.count.val + 1) := by
  rcases edgeFramer_cases d s with ⟨-, e⟩ | ⟨-, -, e⟩ | ⟨-, -, hc, e⟩ | ⟨-, -, -, e⟩ <;> rw [e] at h <;> cases h
  · exact .inl rfl
  · exact .inl rfl
  · exact .inr ⟨by omega, rfl⟩

/-- The accumulator does not read OUT. -/
theorem edgeFramer_setOut {d : Bool} {s t : State} (h : edgeFramer d s = .next t) (o : Out) :
    edgeFramer d (s.setOut o) = .next (t.setOut o) := by
  rcases edgeFramer_cases d s with ⟨hr, e⟩ | ⟨-, hh, e⟩ | ⟨hr, hh, hc, e⟩ | ⟨-, -, -, e⟩ <;> rw [e] at h <;> cases h
  · exact edgeFramer_of_ready (s := s.setOut o) hr
  · exact edgeFramer_of_huntDrops (s := s.setOut o) hh
  · exact edgeFramer_of_room (s := s.setOut o) hr hh hc

/-! ### TAKE by its three cases (R106) -/

theorem exec_take_of_not_ready {s : State} (hr : s.ready = false) : exec .take s = .next { s with out := Out.zero } := by
  rw [exec_take, takeFramer_of_not_ready hr]
  rfl

/-- A frame that fails the check is discarded with FERR (R112 (a)). -/
theorem exec_take_of_bad_frame {s : State} (hr : s.ready = true) (hp : s.params.parityCheck = true)
    (hf : frameOk s.shift = false) :
    exec .take s = .next { s with shift := 0, count := 0, ready := false, out := Out.frameError } := by
  simp only [exec_take, takeFramer, hr, hp, hf]
  rfl

theorem takeFramer_of_good_frame {s : State} (hr : s.ready = true)
    (hok : s.params.parityCheck = true → frameOk s.shift = true) :
    takeFramer s = s.clearAccumulator.report (frameByte s.shift) := by
  rcases takeFramer_cases s with ⟨hr0, -⟩ | ⟨-, hp, hf, -⟩ | ⟨-, -, e⟩
  · simp [hr] at hr0
  · simp [hok hp] at hf
  · exact e

/-- TAKE of a waiting frame, good or bad, clears the accumulator. -/
theorem takeFramer_accumulator_of_ready {s : State} (hr : s.ready = true) :
    (takeFramer s).shift = 0 ∧ (takeFramer s).count = 0 ∧ (takeFramer s).ready = false := by
  rcases takeFramer_accumulator s with ⟨hr0, -⟩ | ⟨-, hempty⟩
  · simp [hr] at hr0
  · exact hempty

/-! ### One operation many times -/

/-- An operation that repeats its own answer gives it after any positive number of times. -/
theorem execAll_replicate_succ {i : Instr} {s t : State} (h : exec i s = .next t) (hfix : exec i t = .next t) (n : Nat) :
    execAll (List.replicate (n + 1) i) s = .next t := by
  induction n generalizing s with
  | zero => exact execAll_cons_of_next h
  | succ n ih => exact (execAll_cons_of_next h).trans (ih hfix)

/-- In the hunt, EDGE 1 changes nothing but OUT (R112 (b)). -/
theorem exec_edge_true_of_hunt {s : State} (hp : s.params.parityCheck = true) (hc : s.count = 0) :
    exec (.edge true) s = .next (s.setOut Out.zero) :=
  edgeFramer_of_huntDrops ((State.huntDrops_eq_true_iff true (s.setOut Out.zero)).mpr ⟨hp, hc, rfl⟩)

/-! ### Odd parity as a count of ones (R103) -/

/-- Folding exclusive-or over a list is the parity of how many entries are true. -/
theorem foldl_xor_eq_odd_filter {α : Type} (g : α → Bool) (l : List α) (acc : Bool) :
    l.foldl (fun a x => a ^^ g x) acc = (acc ^^ decide ((l.filter g).length % 2 = 1)) := by
  induction l generalizing acc with
  | nil => simp
  | cons x l ih =>
    rw [List.foldl_cons, ih]
    cases hx : g x
    · simp [hx]
    · rcases Nat.mod_two_eq_zero_or_one (l.filter g).length with h | h <;> simp [hx, h, Nat.add_mod]

theorem frameXor_eq_odd_filter (f : Frame) :
    frameXor f = decide (((List.finRange 9).filter fun j => f.getLsbD (j.val + 1)).length % 2 = 1) := by
  rw [← Bool.false_xor (decide _), ← foldl_xor_eq_odd_filter]
  simp [frameXor, List.finRange_succ]

theorem frameOk_iff (f : Frame) :
    frameOk f = true ↔ f.getLsbD 0 = false ∧ f.getLsbD 10 = true ∧ frameXor f = true := by
  simp [frameOk, and_assoc]

end Sys2Proof.Machine

namespace Sys2Proof.Proofs

/-- Settles O16, by the branches of a level presented to the accumulator. -/
theorem edgeEffect : Obligations.EdgeEffect := by
  refine fun d s => ⟨fun hr => exec_of_ready hr (.inr ⟨d, rfl⟩), fun _ hp hc hd => ?_, fun hr hh hc => ?_,
    fun w hw => (and_eq_iff_decodeWord_edge w _).mp ⟨hw, rfl⟩⟩
  · subst hd
    exact exec_edge_true_of_hunt hp hc
  · have hkeep : (s.setOut Out.zero).huntDrops d = false := (State.huntDrops_eq_false_iff d _).mpr hh
    exact ⟨_, edgeFramer_of_room (s := s.setOut Out.zero) hr hkeep hc, rfl,
      fun i => getLsbD_setBit s.shift s.count.val d i hc, rfl, beq_iff_eq⟩

/-- Settles O18: the accumulator, which does not read OUT, after what TAKE left. -/
theorem takeEdgeEffect : Obligations.TakeEdgeEffect := by
  refine ⟨fun d s hs => ?_, fun d s hr hd => ?_, fun d s hr hc => ?_, fun d s hr _ => ?_,
    fun w hw => (and_eq_iff_decodeWord_takeEdge w _).mp ⟨hw, rfl⟩⟩
  · obtain hfault | ⟨t, ht⟩ := edgeFramer_fault_or_next d (takeFramer s)
    · obtain ⟨-, h11⟩ := (edgeFramer_eq_fault_iff d _).mp hfault
      rcases takeFramer_accumulator s with ⟨hr, e⟩ | ⟨-, -, hc, -⟩
      · rw [e] at h11
        simp [hs h11] at hr
      · simp [hc] at h11
    · refine ⟨takeFramer s, t.setOut Out.zero, rfl, edgeFramer_setOut ht Out.zero, ?_⟩
      rw [exec_takeEdge, ht, ← edgeFramer_out ht]
      rfl
  · obtain ⟨hf, hc, hr0⟩ := takeFramer_accumulator_of_ready hr
    have hkeep : (takeFramer s).huntDrops d = false := by
      rw [State.huntDrops_eq_false_iff, takeFramer_params]
      rintro ⟨hp, -, rfl⟩
      simp [hp] at hd
    refine ⟨_, edgeFramer_of_room hr0 hkeep (by simp [hc]), by simp [hc], by simp [hc], ?_⟩
    rw [State.setAccumulator_shift, hf, hc]
    cases d <;> rfl
  · obtain ⟨t, ht, -, hready⟩ := edgeFramer_of_count_ten (d := d) (s := s.setOut Out.zero) hr hc
    exact ⟨t, by rw [exec_takeEdge, takeFramer_of_not_ready hr, ht], hready, edgeFramer_out ht⟩
  · rw [exec_takeEdge, takeFramer_of_not_ready hr, exec_edge]

/-- Settles O21, by what a TAKE and then a level can do to COUNT. -/
theorem counterNeverWraps : Obligations.CounterNeverWraps := by
  intro i s t h
  cases i with
  | reset => cases h; exact .inr (.inr (.inl rfl))
  | nop => cases h; exact .inl rfl
  | edge d => exact (edgeFramer_count (s := s.setOut Out.zero) h).imp_right .inl
  | take =>
    cases h
    rcases takeFramer_accumulator s with ⟨-, e⟩ | ⟨-, -, hc, -⟩
    · exact .inl (by rw [e]; rfl)
    · exact .inr (.inr (.inl (by rw [hc]; rfl)))
  | takeEdge d =>
    have hx := edgeFramer_count h
    rcases takeFramer_accumulator s with ⟨-, e⟩ | ⟨hr, -, hc, -⟩
    · rw [e] at hx
      exact hx.imp_right .inl
    · rw [hc] at hx
      exact .inr (.inr (hx.imp id fun h1 => ⟨hr, h1.2⟩))

/-- Settles O41, by TAKE's bad frame and the start-bit hunt. -/
theorem parityCheckDiscardsAndHunts : Obligations.ParityCheckDiscardsAndHunts := by
  refine fun s hp => ⟨fun hr hf => exec_take_of_bad_frame hr hp hf, fun hc => exec_edge_true_of_hunt hp hc,
    fun n hc => ?_, fun hc hr => ?_⟩
  · exact execAll_replicate_succ (exec_edge_true_of_hunt hp hc) (exec_edge_true_of_hunt (s := s.setOut Out.zero) hp hc) n
  · have hkeep : (s.setOut Out.zero).huntDrops false = false := by simp [State.huntDrops_eq_false_iff]
    refine ⟨_, edgeFramer_of_room (s := s.setOut Out.zero) hr hkeep (by simp [hc]), by simp [hc], ?_⟩
    rw [State.setAccumulator_shift, getLsbD_setBit _ _ _ _ (by simp [hc]), if_pos (by simp [hc])]

/-- Settles O7, by the input a step consumes. -/
theorem stepPerformsThePresentedWord : Obligations.StepPerformsThePresentedWord := by
  refine ⟨fun s w rest hs => ?_, fun s c rest hs hr => ?_, fun s c rest hs hr => ?_, fun s hs => ?_, fun s w => ?_⟩
  · rw [step_of_inputs_cons hs, State.dropInput, hs]
    rfl
  · rw [step_of_inputs_cons hs, perform, (decodeWord_cycleWord_eq_reset c _).mpr hr, State.runEdgeDet, if_pos hr,
      State.dropInput, hs]
    rfl
  · rw [step_of_inputs_cons hs, perform, State.runEdgeDet, hr, State.cycleWord, hr, State.dropInput, hs]
    rfl
  · simp only [step, State.nextInput, State.dropInput, hs]
    rfl
  · have hw : BitVec.ofNat 4 (w.toNat % 2 ^ 8) = w := by
      rw [Nat.mod_eq_of_lt (w.isLt.trans (by decide)), BitVec.ofNat_toNat, BitVec.setWidth_eq]
    rw [State.withFetchWord, hw]
    rfl

/-- Settles O15: a NOP's answer is its own. -/
theorem nopEffect : Obligations.NopEffect :=
  ⟨exec_nop, fun n s => execAll_replicate_succ (exec_nop s) (exec_nop (s.setOut Out.zero)) n,
    fun w => (and_eq_iff_decodeWord_nop w).mp⟩

/-- Settles O17, by TAKE's three cases. -/
theorem takeEffect : Obligations.TakeEffect := by
  refine ⟨fun s => ⟨exec_take_of_not_ready, exec_take_of_bad_frame, fun hr hok => ?_⟩,
    fun w => (and_eq_iff_decodeWord_take w).mp, rfl, rfl, rfl, fun c => ⟨rfl, rfl⟩, rfl, rfl, rfl⟩
  have hgood : s.params.parityCheck = true → frameOk s.shift = true := by simpa using hok
  refine ⟨frameByte s.shift, _, _, _, getLsbD_frameByte s.shift, rfl, ?_⟩
  rw [exec_take, takeFramer_of_good_frame hr hgood]
  rfl

/-- Settles O40, by counting the ones that the exclusive-or folds. -/
theorem frameCheckMeaning : Obligations.FrameCheckMeaning := by
  refine fun f => ⟨frameOk_iff f, ?_⟩
  rw [frameOk_iff, frameXor_eq_odd_filter, decide_eq_true_iff]

end Sys2Proof.Proofs
end

section
/-! PROOFS of the framer's obligations (40_framer.md), the runs: eleven EDGEs make one frame, and levels dropped while a frame
waits misalign the frames that follow. -/

open Sys2Proof Sys2Proof.Machine

namespace Sys2Proof.Machine

/-! ### Levels received since COUNT = 0 (R107) -/

/-- The accumulator has received exactly these levels. SHIFT's other bits may hold anything, unlike in `State.Holds`. -/
structure State.Received (s : State) (levels : List Bool) : Prop where
  count : s.count.val = levels.length
  ready : s.ready = true ↔ levels.length = 11
  shift : ∀ k < levels.length, levels[k]? = some (s.shift.getLsbD k)

theorem State.received_nil {s : State} (hc : s.count = 0) (hr : s.ready = false) : s.Received [] where
  count := by simp [hc]
  ready := by simp [hr]
  shift := by simp

theorem State.Received.not_ready {s : State} {levels : List Bool} (h : s.Received levels) (hlen : levels.length < 11) :
    s.ready = false := by
  rw [← Bool.not_eq_true, h.ready]
  exact hlen.ne

/-- What has been received reads nothing but the accumulator. -/
theorem State.Received.setOut {s : State} {levels : List Bool} (h : s.Received levels) (o : Out) :
    (s.setOut o).Received levels :=
  ⟨h.count, h.ready, h.shift⟩

/-- With the check off, a level is stored after those received. -/
theorem State.Received.edgeFramer {s : State} {levels : List Bool} (h : s.Received levels)
    (hp : s.params.parityCheck = false) (hlen : levels.length < 11) (d : Bool) :
    ∃ t, Machine.edgeFramer d s = .next t ∧ t.Received (levels ++ [d]) := by
  have hc : s.count.val < 11 := h.count ▸ hlen
  refine ⟨_, edgeFramer_of_room (h.not_ready hlen) (by simp [State.huntDrops_eq_false_iff, hp]) hc, ?_, ?_, fun k hk => ?_⟩
  · simp [h.count]
  · simp [h.count]
  · rw [State.setAccumulator_shift, getLsbD_setBit _ _ _ _ hc, h.count]
    rw [List.length_append, List.length_singleton] at hk
    obtain hlt | rfl : k < levels.length ∨ k = levels.length := by omega
    · rw [List.getElem?_append_left hlt, if_neg hlt.ne, h.shift k hlt]
    · rw [List.getElem?_concat_length, if_pos rfl]

/-- With the check off, NOP and EDGE receive their level, if any, and leave the translator alone. -/
theorem State.Received.exec {s : State} {levels : List Bool} {i : Instr} (h : s.Received levels)
    (hp : s.params.parityCheck = false) (hi : i = .nop ∨ ∃ d, i = .edge d)
    (hlen : levels.length + (edgeLevels [i]).length ≤ 11) :
    ∃ t, Machine.exec i s = .next t ∧ t.Received (levels ++ edgeLevels [i]) ∧ t.pend = s.pend ∧ t.last = s.last := by
  rcases hi with rfl | ⟨d, rfl⟩
  · exact ⟨_, rfl, by simpa [edgeLevels] using h.setOut Out.zero, rfl, rfl⟩
  · obtain ⟨t, ht, hrec⟩ := (h.setOut Out.zero).edgeFramer hp hlen d
    exact ⟨t, ht, hrec, edgeFramer_translator (s := s.setOut Out.zero) ht⟩

/-- The same over a run of NOPs and EDGEs. -/
theorem State.Received.execAll {is : List Instr} {s : State} {levels : List Bool} (h : s.Received levels)
    (hp : s.params.parityCheck = false) (his : ∀ i ∈ is, i = .nop ∨ ∃ d, i = .edge d)
    (hlen : levels.length + (edgeLevels is).length ≤ 11) :
    ∃ t, Machine.execAll is s = .next t ∧ t.params = s.params ∧ t.Received (levels ++ edgeLevels is) ∧
      t.pend = s.pend ∧ t.last = s.last := by
  induction is generalizing s levels with
  | nil => exact ⟨s, rfl, rfl, by simpa [edgeLevels] using h, rfl, rfl⟩
  | cons i is ih =>
    obtain ⟨hi, his⟩ := List.forall_mem_cons.mp his
    rw [edgeLevels_cons, List.length_append] at hlen
    obtain ⟨u, hu, hrec, hpend, hlast⟩ := h.exec hp hi (by omega)
    have hpu := exec_params hu
    obtain ⟨t, ht, hpt, hrec', hpend', hlast'⟩ := ih hrec (hpu ▸ hp) his (by rw [List.length_append]; omega)
    rw [List.append_assoc, ← edgeLevels_cons] at hrec'
    exact ⟨t, (execAll_cons_of_next hu).trans ht, hpt.trans hpu, hrec', hpend'.trans hpend, hlast'.trans hlast⟩

/-! ### Frames taken in time (R111) -/

/-- While a frame waits, no NOP or EDGE of a run reports anything. -/
theorem execOuts_of_ready {is : List Instr} {s : State} (hr : s.ready = true)
    (his : ∀ i ∈ is, i = .nop ∨ ∃ d, i = .edge d) : ∀ o ∈ execOuts is s, o = Out.zero := by
  induction is generalizing s with
  | nil => exact nofun
  | cons i is ih =>
    obtain ⟨hi, his⟩ := List.forall_mem_cons.mp his
    rw [execOuts_cons_of_next (exec_of_ready hr hi), List.forall_mem_cons]
    exact ⟨rfl, ih (s := s.setOut Out.zero) hr his⟩

theorem takenBytes_append (a b : List Out) : takenBytes (a ++ b) = takenBytes a ++ takenBytes b :=
  List.filterMap_append

/-- The EDGEs of these levels, and a TAKE. -/
def edgesThenTake (levels : List Bool) : List Instr := expandBits levels ++ [.take]

/-- Levels that complete the mailbox and a TAKE hand out the frame's byte and leave the mailbox empty. -/
theorem boxRun_edgesThenTake_append (ds : List Bool) {levels : List Bool} (rest : List Instr)
    (hlen : levels.length + ds.length = 11) :
    boxRun (edgesThenTake ds ++ rest) levels = byteOf (levels ++ ds) :: boxRun rest [] := by
  induction ds generalizing levels with
  | nil =>
    have hfull : levels.length = 11 := hlen
    simp [edgesThenTake, expandBits, boxRun, boxTake_of_full hfull]
  | cons d ds ih =>
    rw [List.length_cons] at hlen
    have hrun : boxRun (edgesThenTake (d :: ds) ++ rest) levels = boxRun (edgesThenTake ds ++ rest) (boxAccept d levels) :=
      rfl
    rw [hrun, boxAccept_of_lt (by omega), ih (by simp; omega), List.append_assoc, List.singleton_append]

/-- The mailbox hands out the byte of every frame that is taken as it completes. -/
theorem boxRun_flatMap_edgesThenTake (frames : List (List Bool)) (hlen : ∀ f ∈ frames, f.length = 11) :
    boxRun (frames.flatMap edgesThenTake) [] = frames.map byteOf := by
  induction frames with
  | nil => rfl
  | cons f frames ih =>
    obtain ⟨hf, hlen⟩ := List.forall_mem_cons.mp hlen
    rw [List.flatMap_cons, boxRun_edgesThenTake_append f _ (by simpa using hf), ih hlen, List.nil_append, List.map_cons]

/-- The frames a wire gives from position j on, n of them. -/
def wireFrames (wire : List Bool) (j n : Nat) : List (List Bool) :=
  (List.range n).map fun k => (wire.drop (j + 11 * k)).take 11

theorem length_of_mem_wireFrames {wire f : List Bool} {j n : Nat} (hlen : j + 11 * n ≤ wire.length)
    (hf : f ∈ wireFrames wire j n) : f.length = 11 := by
  obtain ⟨k, hk, rfl⟩ := List.mem_map.mp hf
  have hkn : k < n := List.mem_range.mp hk
  rw [List.length_take, List.length_drop]
  omega

/-- A TAKE of a waiting frame with the check off reports its byte. -/
theorem takeFramer_out_of_ready {s : State} (hr : s.ready = true) (hp : s.params.parityCheck = false) :
    (takeFramer s).out.bv = true ∧ (takeFramer s).out.byte = frameByte s.shift := by
  rw [takeFramer_of_good_frame hr (by simp [hp])]
  exact ⟨rfl, rfl⟩

theorem nop_or_edge_of_mem_expandBits {ds : List Bool} {i : Instr} (hi : i ∈ expandBits ds) :
    i = .nop ∨ ∃ d, i = .edge d := by
  obtain ⟨d, -, rfl⟩ := List.mem_map.mp hi
  exact .inr ⟨d, rfl⟩

/-- Levels that arrive while a frame waits are lost: the TAKE reports the waiting byte, and the run goes on from an empty
accumulator. -/
theorem takenBytes_edgesThenTake_append {ds : List Bool} {is : List Instr} {s : State} (hr : s.ready = true)
    (hp : s.params.parityCheck = false) :
    ∃ t : State, t.params = s.params ∧ t.Holds [] ∧
      takenBytes (execOuts (edgesThenTake ds ++ is) s) = frameByte s.shift :: takenBytes (execOuts is t) := by
  have hedge : ∀ i ∈ expandBits ds, i = .nop ∨ ∃ d, i = .edge d := fun _ => nop_or_edge_of_mem_expandBits
  obtain ⟨o, ho⟩ := execAll_of_ready hr hedge
  obtain ⟨hf, hc, hr0⟩ := takeFramer_accumulator_of_ready (s := s.setOut o) hr
  obtain ⟨hbv, hbyte⟩ := takeFramer_out_of_ready (s := s.setOut o) hr hp
  refine ⟨takeFramer (s.setOut o), takeFramer_params _, State.holds_nil_of_empty hf hc hr0, ?_⟩
  rw [edgesThenTake, List.append_assoc, execOuts_append_of_next ho, takenBytes_append,
    takenBytes_of_forall_zero (execOuts_of_ready hr hedge), List.nil_append, List.singleton_append,
    execOuts_cons_of_next (exec_take _), takenBytes_cons]
  simp [takenBytes, hbv, hbyte]

end Sys2Proof.Machine

namespace Sys2Proof.Proofs

/-- Settles O42, by the levels received along the run. -/
theorem elevenEdgesMakeOneFrame : Obligations.ElevenEdgesMakeOneFrame := by
  intro is s hc hr hp his hlen
  obtain ⟨t, ht, hpt, hrec, hpend, hlast⟩ := (State.received_nil hc hr).execAll hp his (by simpa using hlen)
  rw [List.nil_append] at hrec
  refine ⟨t, ht, hrec.count, hrec.ready, hrec.shift, hpend, hlast,
    fun hpart => exec_take_of_not_ready (hrec.not_ready hpart), fun hfull => ?_⟩
  have hready : t.ready = true := hrec.ready.mpr hfull
  obtain ⟨hbv, hbyte⟩ := takeFramer_out_of_ready hready (hpt ▸ hp)
  obtain ⟨-, hcount, hr0⟩ := takeFramer_accumulator_of_ready hready
  refine ⟨takeFramer t, rfl, hbv, fun j hj => ?_, hr0, hcount, exec_take_of_not_ready hr0⟩
  rw [hbyte, getLsbD_frameByte _ j hj, hrec.shift (j + 1) (by omega)]

/-- Settles O43: the dropped levels are lost, and from the cleared accumulator on the framer is the mailbox of O44. -/
theorem droppedLevelsMisalignForGood : Obligations.DroppedLevelsMisalignForGood := by
  intro s wire j n hr hp _ hlen
  obtain ⟨t, hpt, hold, hbytes⟩ := takenBytes_edgesThenTake_append (ds := wire.take j)
    (is := (wireFrames wire j n).flatMap edgesThenTake) hr hp
  obtain ⟨hbox, -⟩ := framerIsASingleSlotMailbox ((wireFrames wire j n).flatMap edgesThenTake) t [] (hpt ▸ hp) hold
    (Nat.zero_le _)
  rw [hbox, boxRun_flatMap_edgesThenTake _ fun f hf => length_of_mem_wireFrames hlen hf, wireFrames, List.flatMap_map,
    List.map_map] at hbytes
  exact hbytes

end Sys2Proof.Proofs
end

section
/-! PROOFS of the translator's obligations (41_translator.md), the bytes: each branch of R141 as a rule of its own, the events
of an accepted byte, and short sequences of bytes. -/

open Sys2Proof Sys2Proof.Machine

namespace Sys2Proof.Machine

/-! ### The four branches (R141 to R145) -/

/-- Branch A, whatever PEND and LAST are (R142). -/
theorem translateByte_releasePrefix (p : Params) (pend : Bool) (last : Byte) :
    translateByte p pend last 0xF0 = (.none, true, last) :=
  if_pos rfl

/-- Branch B (R143). -/
theorem translateByte_of_pend (p : Params) (last : Byte) {b : Byte} (hb : b ≠ 0xF0) :
    translateByte p true last b = (.none, false, 0x00) :=
  if_neg hb

/-- Branch C (R144). -/
theorem translateByte_self (p : Params) {b : Byte} (hb : b ≠ 0xF0) : translateByte p false b b = (.none, false, b) := by
  rcases translate_cases p false b b with ⟨h, -⟩ | ⟨-, h, -⟩ | ⟨-, -, -, e⟩ | ⟨-, -, h, -⟩
  · exact absurd h hb
  · cases h
  · exact e
  · exact absurd rfl h

/-- Branch D (R145). -/
theorem translateByte_of_ne_last (p : Params) {last b : Byte} (hb : b ≠ 0xF0) (hl : b ≠ last) :
    translateByte p false last b = (acceptEvent p b, false, b) := by
  rcases translate_cases p false last b with ⟨h, -⟩ | ⟨-, h, -⟩ | ⟨-, -, h, -⟩ | ⟨-, -, -, e⟩
  · exact absurd h hb
  · cases h
  · exact absurd h hl
  · exact e

/-! ### The event of an accepted byte (R151 to R153) -/

theorem acceptEvent_eq_commit_iff (p : Params) (b : Byte) :
    acceptEvent p b = .commit ↔ lookupLut p b = some p.enterSentinel := by
  rcases acceptEvent_cases p b with ⟨hs, e⟩ | ⟨hs, -, e⟩ | ⟨hs, -, c, -, -, e⟩ | ⟨hs, -, -, e⟩ <;> simp [hs, e]

theorem acceptEvent_eq_backspace_iff (p : Params) (b : Byte) :
    acceptEvent p b = .backspace ↔ b = p.backspaceCode ∧ lookupLut p b ≠ some p.enterSentinel := by
  rcases acceptEvent_cases p b with ⟨hs, e⟩ | ⟨hs, hb, e⟩ | ⟨-, hb, c, -, -, e⟩ | ⟨-, hb, -, e⟩
  · simp [hs, e]
  · exact ⟨fun _ => ⟨hb, hs⟩, fun _ => e⟩
  · simp [hb, e]
  · simp [hb, e]

/-- A byte beyond the table is at most a backspace (R147). -/
theorem acceptEvent_of_tableLen_le {p : Params} {b : Byte} (h : p.tableLen ≤ b.toNat) :
    acceptEvent p b = if b = p.backspaceCode then .backspace else .none := by
  have hnone : lookupLut p b = none := if_neg (Nat.not_lt.mpr h)
  simp [acceptEvent, hnone]

/-- With the default table, bytes from 0x80 on give nothing. -/
theorem acceptEvent_defaultParams_of_le {b : Byte} (h : 0x80 ≤ b.toNat) : acceptEvent defaultParams b = .none := by
  have hb : b ≠ defaultParams.backspaceCode := by
    rintro rfl
    revert h
    decide
  rw [acceptEvent_of_tableLen_le h, if_neg hb]

/-- An entry that is not "no mapping" is a listed cell (R150). -/
theorem mem_of_lutRead_ne {lut : List Host.Cell} {a : Nat} (h : lutRead lut a ≠ unlistedEntry) :
    (a, lutRead lut a) ∈ lut := by
  induction lut with
  | nil => exact absurd (lutRead_nil a) h
  | cons c rest ih =>
    rw [lutRead_cons] at h ⊢
    split at h
    · next ha => simp [ha]
    · next ha =>
      rw [if_neg ha]
      exact List.mem_cons_of_mem _ (ih h)

/-- The default table has its Enter sentinel at 0x5A only (R151). -/
theorem lookupLut_defaultParams_eq_enterSentinel_iff (b : Byte) :
    lookupLut defaultParams b = some 0x0D ↔ b = 0x5A := by
  constructor
  · intro h
    have hread : lutRead defaultLut b.toNat = 0x0D := by
      unfold lookupLut at h
      split at h
      · exact Option.some.inj h
      · cases h
    have hmem : (b.toNat, 0x0D) ∈ defaultLut := hread ▸ mem_of_lutRead_ne (by rw [hread]; decide)
    have honly : ∀ c ∈ defaultLut, c.2 = 0x0D → c.1 = 0x5A := by decide
    exact BitVec.eq_of_toNat_eq (honly _ hmem rfl)
  · rintro rfl
    decide

/-! ### Lists of bytes -/

theorem translateAll_nil (p : Params) (pend : Bool) (last : Byte) : translateAll p pend last [] = ([], pend, last) := rfl

/-- The first byte by its branch, and the rest from the PEND and LAST it leaves. -/
theorem translateAll_cons {p : Params} {pend pend' : Bool} {last last' b : Byte} {e : KeyEvent}
    (h : translateByte p pend last b = (e, pend', last')) (bs : List Byte) :
    translateAll p pend last (b :: bs) =
      (e :: (translateAll p pend' last' bs).1, (translateAll p pend' last' bs).2) := by
  simp only [translateAll, h]

/-- Branch C over any number of bytes (R144). -/
theorem translateAll_replicate_self (p : Params) {b : Byte} (hb : b ≠ 0xF0) (n : Nat) :
    translateAll p false b (List.replicate n b) = (List.replicate n .none, false, b) := by
  induction n with
  | zero => rfl
  | succ n ih => rw [List.replicate_succ, translateAll_cons (translateByte_self p hb), ih, List.replicate_succ]

/-- The first of equal bytes is accepted, and the others are its repeats. -/
theorem translateAll_replicate_succ (p : Params) {last b : Byte} (hb : b ≠ 0xF0) (hl : b ≠ last) (n : Nat) :
    translateAll p false last (List.replicate (n + 1) b) = (acceptEvent p b :: List.replicate n .none, false, b) := by
  rw [List.replicate_succ, translateAll_cons (translateByte_of_ne_last p hb hl), translateAll_replicate_self p hb]

/-! ### The translator behind a TAKE (40_framer.md R106) -/

/-- With the check off, TAKE of a waiting frame leaves what the translator answers for its byte. -/
theorem exec_take_of_translateByte {s : State} {e : KeyEvent} {pend : Bool} {last : Byte} (hr : s.ready = true)
    (hp : s.params.parityCheck = false)
    (h : translateByte s.params s.pend s.last (frameByte s.shift) = (e, pend, last)) :
    exec .take s = .next ((s.clearAccumulator.setTranslator pend last).setOut (Out.taken (frameByte s.shift) e)) := by
  have h' : translateByte s.clearAccumulator.params s.clearAccumulator.pend s.clearAccumulator.last
    (frameByte s.shift) = (e, pend, last) := h
  rw [exec_take, takeFramer_of_good_frame hr (by simp [hp]), State.report, h']

/-- No operation brings RELEASE_PREFIX into LAST (R142). -/
theorem exec_translatorOk {i : Instr} {s t : State} (h : exec i s = .next t) (hs : s.TranslatorOk) : t.TranslatorOk := by
  refine exec_induction h noneCode_ne_releasePrefix hs (takeFramer_translatorOk hs) fun {d u v} hu hv => ?_
  rw [State.TranslatorOk, (edgeFramer_translator hv).2]
  exact hu

end Sys2Proof.Machine

namespace Sys2Proof.Proofs

/-- Settles O29, by branch D once and branch C for every repeat. -/
theorem repeatsAreSuppressed : Obligations.RepeatsAreSuppressed :=
  fun p _ _ n hb => ⟨fun hl => translateAll_replicate_succ p hb hl n, translateAll_replicate_self p hb n⟩

/-- Settles O24, by the rule of each branch and the cases of an accepted byte's event. -/
theorem translateBranches : Obligations.TranslateBranches := by
  refine fun p pend last b => ⟨?_, ?_, ?_, ?_⟩
  · rintro rfl
    exact translateByte_releasePrefix p pend last
  · rintro hb rfl
    exact translateByte_of_pend p last hb
  · rintro hb rfl rfl
    exact translateByte_self p hb
  · rintro hb rfl hl
    refine ⟨acceptEvent p b, translateByte_of_ne_last p hb hl, (acceptEvent_eq_commit_iff p b).mpr,
      fun hs hcode => (acceptEvent_eq_backspace_iff p b).mpr ⟨hcode, hs⟩, fun hs hcode => ?_⟩
    rcases acceptEvent_cases p b with ⟨h, -⟩ | ⟨-, h, -⟩ | ⟨-, -, c, hc, hprint, e⟩ | ⟨-, -, hnot, e⟩
    · exact absurd h hs
    · exact absurd h hcode
    · exact ⟨fun c' hc' _ => by cases hc.symm.trans hc'; exact e, fun hnot => by simp [hnot c hc] at hprint⟩
    · exact ⟨fun c hc hprint => by simp [hnot c hc] at hprint, fun _ => e⟩

/-- Settles O26, by reading every entry of the table. -/
theorem defaultTableEntries : Obligations.DefaultTableEntries :=
  ⟨rfl, rfl, rfl⟩

/-- Settles O27, by branch A and by what no branch stores in LAST. -/
theorem releasePrefixSetsPend : Obligations.ReleasePrefixSetsPend := by
  refine ⟨translateByte_releasePrefix, fun s hr hp hb => ?_, fun i s t => exec_translatorOk⟩
  have hbyte : frameByte s.shift = 0xF0 := hb
  rw [exec_take_of_translateByte hr hp (hbyte ▸ translateByte_releasePrefix s.params s.pend s.last), hbyte]
  rfl

/-- Settles O28, by branch B. -/
theorem keyUpClearsLast : Obligations.KeyUpClearsLast := by
  refine ⟨fun p last b => translateByte_of_pend p last, fun s hr hp hpend hb => ?_⟩
  exact exec_take_of_translateByte hr hp (hpend ▸ translateByte_of_pend s.params s.last hb)

/-- Settles O30, by branch D and by when its event is COMMIT or BACKSPACE. -/
theorem acceptedByteIsStored : Obligations.AcceptedByteIsStored := by
  refine fun p last b hb hl => ⟨translateByte_of_ne_last p hb hl, fun hlen hcode => ?_, acceptEvent_eq_commit_iff p b⟩
  rw [acceptEvent_of_tableLen_le hlen, if_pos hcode]

/-- Settles O31: 0x00 is "none" to branch C, and a byte like any other to branch D. -/
theorem zeroByteForgetsTheLastKey : Obligations.ZeroByteForgetsTheLastKey := by
  have hzero : (0x00 : Byte) ≠ 0xF0 := by decide
  refine ⟨fun p => translateByte_self p hzero, fun p last hl => translateByte_of_ne_last p hzero hl.symm, by decide,
    fun p x h0 hx => ?_, by decide⟩
  rw [translateAll_cons (translateByte_of_ne_last p hx h0), translateAll_cons (translateByte_of_ne_last p hzero h0.symm),
    translateAll_cons (translateByte_of_ne_last p hx h0), translateAll_nil]

/-- Settles O32: beyond the table the event is decided by the scan code alone. -/
theorem bytesOutsideTheTable : Obligations.BytesOutsideTheTable := by
  refine ⟨fun p last b hlen hb hl => ?_, fun b hlow hb => ?_⟩
  · rw [← acceptEvent_of_tableLen_le hlen]
    exact translateAll_replicate_succ p hb hl 1
  · have hne : b ≠ 0x00 := by
      rintro rfl
      revert hlow
      decide
    exact ⟨hne, by rw [translateByte_of_ne_last _ hb hne, acceptEvent_defaultParams_of_le hlow]⟩

/-- Settles O33, by branch D for 0xE0 and for the byte after it. -/
theorem extendedPrefixIsOrdinary : Obligations.ExtendedPrefixIsOrdinary :=
  ⟨fun p _ hl => translateByte_of_ne_last p (by decide) hl.symm, acceptEvent_defaultParams_of_le (by decide),
    fun p _ hb hl => translateByte_of_ne_last p hb hl, by decide, by decide⟩

/-- Settles O34: the release of a clears LAST, so the repeat of b is accepted. -/
theorem overlappingKeysAreAcceptedAgain : Obligations.OverlappingKeysAreAcceptedAgain := by
  refine ⟨by decide, fun p a b ha hb hab ha0 hb0 => ?_, fun m hm last hl => ?_⟩
  · rw [translateAll_cons (translateByte_of_ne_last p ha ha0), translateAll_cons (translateByte_of_ne_last p hb hab.symm),
      translateAll_cons (translateByte_releasePrefix p false b), translateAll_cons (translateByte_of_pend p b ha),
      translateAll_cons (translateByte_of_ne_last p hb hb0), translateAll_nil]
  · have hmod : ∀ m ∈ ([0x12, 0x59, 0x14] : List Byte), m ≠ 0xF0 ∧ acceptEvent defaultParams m = .none := by decide
    obtain ⟨hrelease, hnone⟩ := hmod m hm
    rw [translateByte_of_ne_last _ hrelease hl.symm, hnone]

/-- Settles O35, by when an accepted byte's event is COMMIT or BACKSPACE, and the default table's only sentinel. -/
theorem enterAndBackspaceMechanisms : Obligations.EnterAndBackspaceMechanisms := by
  refine ⟨acceptEvent_eq_commit_iff, acceptEvent_eq_backspace_iff, fun b => ?_, fun b => ?_, rfl, rfl, by decide, by decide⟩
  · exact (acceptEvent_eq_commit_iff defaultParams b).trans (lookupLut_defaultParams_eq_enterSentinel_iff b)
  · have hcode : b = 0x66 → lookupLut defaultParams b ≠ some defaultParams.enterSentinel := by
      rintro rfl
      decide
    exact (acceptEvent_eq_backspace_iff defaultParams b).trans (and_iff_left_of_imp hcode)

/-- Settles O36, by the one default range and by the event of an entry that is not printable (O25). -/
theorem printableRange : Obligations.PrintableRange := by
  refine ⟨fun c => ?_, fun p b hwf h0 hs hb => ?_⟩
  · simp [isPrintable, defaultParams, BitVec.le_def]
  · obtain ⟨-, -, hprint, -⟩ := hwf
    obtain ⟨-, -, hevent⟩ := lookupIsBoundsChecked p b
    exact hevent 0x00 h0 hs.symm hprint hb

/-- Settles O37: branch A sets PEND, and branch B clears LAST at the first byte but 0xF0. -/
theorem releasePairClearsLast : Obligations.ReleasePairClearsLast := by
  intro p last x
  have hrelease (pend : Bool) (bs : List Byte) := translateAll_cons (translateByte_releasePrefix p pend last) bs
  have hclear (hx : x ≠ 0xF0) := translateAll_cons (translateByte_of_pend p last hx) []
  refine ⟨fun hx => ?_, ?_, fun hx => ?_⟩
  · rw [hrelease, hclear hx, translateAll_nil]
  · rw [hrelease, hrelease, translateAll_nil]
  · rw [hrelease, hrelease, hclear hx, translateAll_nil]

/-- Settles O38, as two equal bytes of O29. -/
theorem sameByteTwice : Obligations.SameByteTwice :=
  fun p _ _ hx => ⟨fun hl => translateAll_replicate_succ p hx hl.symm 1, translateAll_replicate_self p hx 2⟩

end Sys2Proof.Proofs
end

section
/-! PROOFS of O47 and O48: over a whole run the key events are the translator's, and keys pressed and released one after another
come out in order. -/

open Sys2Proof Sys2Proof.Machine

namespace Sys2Proof.Machine

/-! ### A run's key events (41_translator.md R140) -/

/-- An event as OUT reports it, KIND and CHAR. -/
def KeyEvent.report (e : KeyEvent) : Kind × Byte := (e.kind, e.char)

theorem translateAll_append (p : Params) (pend : Bool) (last : Byte) (a b : List Byte) :
    translateAll p pend last (a ++ b) =
      ((translateAll p pend last a).1 ++
        (translateAll p (translateAll p pend last a).2.1 (translateAll p pend last a).2.2 b).1,
        (translateAll p (translateAll p pend last a).2.1 (translateAll p pend last a).2.2 b).2) := by
  induction a generalizing pend last with
  | nil => rfl
  | cons x a ih => simp only [List.cons_append, translateAll, ih]

theorem keyEvents_append (a b : List Out) : keyEvents (a ++ b) = keyEvents a ++ keyEvents b :=
  List.filterMap_append

/-- Over steps with these OUT values, from s to t, the key events reported are the translator's over the bytes taken, and PEND
and LAST end as the translator leaves them. -/
structure State.Translates (s t : State) (outs : List Out) : Prop where
  events : keyEvents outs = (translateAll s.params s.pend s.last (takenBytes outs)).1.map KeyEvent.report
  registers : (t.pend, t.last) = (translateAll s.params s.pend s.last (takenBytes outs)).2

/-- Steps after steps: the translator goes on from the PEND and LAST it left. -/
theorem State.Translates.append {s t u : State} {a b : List Out} (h : s.Translates t a) (hp : t.params = s.params)
    (h' : t.Translates u b) : s.Translates u (a ++ b) := by
  obtain ⟨hevents, hregisters⟩ := h
  obtain ⟨hevents', hregisters'⟩ := h'
  obtain ⟨hpend, hlast⟩ := Prod.mk.inj hregisters
  rw [hp, hpend, hlast] at hevents' hregisters'
  refine ⟨?_, ?_⟩
  · rw [keyEvents_append, takenBytes_append, translateAll_append, List.map_append, hevents, hevents']
  · rw [takenBytes_append, translateAll_append, hregisters']

/-- A step that takes no byte and leaves PEND and LAST. -/
theorem State.translates_of_no_byte {s t : State} (hbv : t.out.bv = false) (hpend : t.pend = s.pend)
    (hlast : t.last = s.last) : s.Translates t [t.out] := by
  constructor <;> simp [keyEvents, takenBytes, translateAll, hbv, hpend, hlast]

/-- TAKE, in each of its cases (40_framer.md R106), the frame error included. -/
theorem takeFramer_translates (s : State) : s.Translates (takeFramer s) [(takeFramer s).out] := by
  rcases takeFramer_cases s with ⟨-, e⟩ | ⟨-, -, -, e⟩ | ⟨-, -, e⟩ <;> rw [e]
  · exact State.translates_of_no_byte rfl rfl rfl
  · exact State.translates_of_no_byte rfl rfl rfl
  · exact ⟨rfl, rfl⟩

/-- The EDGE half of an operation adds nothing to what has been reported. -/
theorem State.Translates.edgeFramer {s t u : State} {d : Bool} (h : s.Translates t [t.out])
    (hu : Machine.edgeFramer d t = .next u) : s.Translates u [u.out] := by
  obtain ⟨hpend, hlast⟩ := edgeFramer_translator hu
  rw [edgeFramer_out hu]
  exact ⟨h.events, by rw [hpend, hlast, h.registers]⟩

theorem exec_translates {i : Instr} {s t : State} (hi : i ≠ .reset) (h : exec i s = .next t) :
    s.Translates t [t.out] := by
  have hzero : s.Translates (s.setOut Out.zero) [Out.zero] := State.translates_of_no_byte rfl rfl rfl
  cases i with
  | reset => exact absurd rfl hi
  | nop => cases h; exact hzero
  | edge d => exact hzero.edgeFramer (t := s.setOut Out.zero) h
  | take => cases h; exact takeFramer_translates s
  | takeEdge d => exact (takeFramer_translates s).edgeFramer h

/-- A run answers a next state through the state its first operation answers. -/
theorem execAll_cons_next {i : Instr} {is : List Instr} {s t : State} (h : execAll (i :: is) s = .next t) :
    ∃ u, exec i s = .next u ∧ execAll is u = .next t := by
  cases hx : exec i s with
  | next u => exact ⟨u, rfl, (execAll_cons_of_next hx).symm.trans h⟩
  | fault r => cases (execAll_cons_of_fault hx).symm.trans h
  | refused r => simp [execAll, hx] at h

theorem execAll_translates {is : List Instr} {s t : State} (his : ∀ i ∈ is, i ≠ .reset) (h : execAll is s = .next t) :
    s.Translates t (execOuts is s) := by
  induction is generalizing s with
  | nil => cases h; exact ⟨rfl, rfl⟩
  | cons i is ih =>
    obtain ⟨hi, his⟩ := List.forall_mem_cons.mp his
    obtain ⟨u, hu, hrest⟩ := execAll_cons_next h
    rw [execOuts_cons_of_next hu]
    exact (exec_translates hi hu).append (exec_params hu) (ih his hrest)

/-! ### Runs within 10_state.md R26 do not stop -/

theorem exec_accumulatorOk {i : Instr} {s t : State} (hs : s.AccumulatorOk) (h : exec i s = .next t) :
    t.AccumulatorOk :=
  exec_induction h (State.accumulatorOk_of_empty rfl rfl rfl) hs (takeFramer_accumulatorOk hs)
    fun hu => edgeFramer_accumulatorOk hu

end Sys2Proof.Machine

namespace Sys2Proof.Proofs

/-- READY = 0 with COUNT = 11, the one state an operation stops in (O20), is outside R26. -/
theorem exec_next_of_accumulatorOk (i : Instr) {s : State} (hs : s.AccumulatorOk) : ∃ t, exec i s = .next t := by
  obtain ⟨hstop, hanswer⟩ := onlyOverrunStops i s
  rcases hanswer with hf | hnext
  · obtain ⟨-, hr, hc⟩ := hstop.mp hf
    have hready : s.ready = true := hs.1.mpr hc
    simp [hr] at hready
  · exact hnext

theorem execAll_next_of_accumulatorOk (is : List Instr) {s : State} (hs : s.AccumulatorOk) :
    ∃ t, execAll is s = .next t := by
  induction is generalizing s with
  | nil => exact ⟨s, rfl⟩
  | cons i is ih =>
    obtain ⟨u, hu⟩ := exec_next_of_accumulatorOk i hs
    rw [execAll_cons_of_next hu]
    exact ih (exec_accumulatorOk hs hu)

/-- Settles O47, by one operation's events and the translator's continuation along the run. -/
theorem keyEventsAreTheTranslatorsOverTakenBytes : Obligations.KeyEventsAreTheTranslatorsOverTakenBytes := by
  intro is s _ hacc his
  obtain ⟨t, ht⟩ := execAll_next_of_accumulatorOk is hacc
  obtain ⟨hevents, hregisters⟩ := execAll_translates his ht
  exact ⟨hevents, t, ht, hregisters⟩

end Sys2Proof.Proofs

namespace Sys2Proof.Machine

/-! ### Frames sent and taken one after another (30_encoding.md R77) -/

/-- `FRAME b`, `TAKE`. -/
def frameThenTake (b : Byte) : List Instr := expandFrame b ++ [.take]

theorem ne_reset_of_mem_frameThenTake {b : Byte} {i : Instr} (hi : i ∈ frameThenTake b) : i ≠ .reset := by
  rcases List.mem_append.mp hi with hedge | htake
  · obtain ⟨d, -, rfl⟩ := List.mem_map.mp hedge
    nofun
  · rw [List.mem_singleton.mp htake]
    nofun

/-- EDGEs report nothing, in whatever state. -/
theorem takenBytes_execOuts_expandBits (ds : List Bool) (s : State) : takenBytes (execOuts (expandBits ds) s) = [] := by
  refine takenBytes_of_forall_zero ?_
  induction ds generalizing s with
  | nil => exact nofun
  | cons d ds ih =>
    show ∀ o ∈ execOuts (.edge d :: expandBits ds) s, o = Out.zero
    rcases edgeFramer_fault_or_next d (s.setOut Out.zero) with hf | ⟨t, ht⟩
    · have hf' : exec (.edge d) s = .fault .accumulatorOverrun := hf
      simp [execOuts, hf']
    · rw [execOuts_cons_of_next (i := .edge d) ht, List.forall_mem_cons]
      exact ⟨edgeFramer_out ht, ih t⟩

/-- With COUNT = 0 there is nothing to clear. -/
theorem State.AccumulatorOk.clearAccumulator_eq_self {s : State} (h : s.AccumulatorOk) (hc : s.count = 0) :
    s.clearAccumulator = s := by
  obtain ⟨hf, -, hr⟩ := h.holds_nil hc
  have hf0 : s.shift = 0x000 := hf
  have hr0 : s.ready = false := by simpa using hr
  rw [State.clearAccumulator, ← hf0, ← hc, ← hr0]
  rfl

/-- With COUNT = 0 a frame sent and taken hands out its byte, and leaves nothing but the translator and OUT changed. -/
theorem execAll_frameThenTake (b : Byte) {s : State} (hacc : s.AccumulatorOk) (hc : s.count = 0) :
    (∃ pend last o, execAll (frameThenTake b) s = .next ((s.setTranslator pend last).setOut o)) ∧
      takenBytes (execOuts (frameThenTake b) s) = [b] := by
  obtain ⟨t, ht, hold, hframe⟩ := execAll_expandFrame b hacc hc
  have htake : exec .take t = .next (t.clearAccumulator.report b) := congrArg _ hold.takeFramer_wireFrame
  constructor
  · have hclear : t.clearAccumulator = s.setOut t.out := by
      rw [hframe]
      exact congrArg (State.setOut t.out) (hacc.clearAccumulator_eq_self hc)
    rw [hclear] at htake
    exact ⟨_, _, _, (execAll_append_of_next ht).trans (execAll_cons_of_next htake)⟩
  · rw [frameThenTake, execOuts_append_of_next ht, takenBytes_append, expandFrame, takenBytes_execOuts_expandBits,
      execOuts_cons_of_next htake]
    rfl

/-- The same for any number of frames. -/
theorem execAll_flatMap_frameThenTake (bs : List Byte) {s : State} (hacc : s.AccumulatorOk) (hc : s.count = 0) :
    (∃ pend last o, execAll (bs.flatMap frameThenTake) s = .next ((s.setTranslator pend last).setOut o)) ∧
      takenBytes (execOuts (bs.flatMap frameThenTake) s) = bs := by
  induction bs generalizing s with
  | nil => exact ⟨⟨s.pend, s.last, s.out, rfl⟩, rfl⟩
  | cons b bs ih =>
    obtain ⟨⟨pend, last, o, hb⟩, hbyte⟩ := execAll_frameThenTake b hacc hc
    obtain ⟨⟨pend', last', o', hbs⟩, hbytes⟩ := ih (s := (s.setTranslator pend last).setOut o) hacc hc
    rw [List.flatMap_cons, execAll_append_of_next hb, execOuts_append_of_next hb, takenBytes_append, hbyte, hbytes]
    exact ⟨⟨pend', last', o', hbs⟩, rfl⟩

/-! ### Keys pressed and released (95_test_vectors.md S5) -/

/-- The bytes a key sends: its make code, and RELEASE_PREFIX with its make code. -/
def keyBytes (b : Byte) : List Byte := [b, releasePrefix, b]

/-- KEY b sends and takes the frames of b's bytes. -/
theorem expand_key (b : Byte) : (Pseudo.key b).expand = (keyBytes b).flatMap frameThenTake := by
  simp [Pseudo.expand, keyBytes, frameThenTake]

/-- From PEND = 0 and LAST none, a key gives its own event once, and its release forgets it. -/
theorem translateAll_keyBytes (p : Params) {b : Byte} (hb : b ≠ 0xF0) (h0 : b ≠ 0x00) :
    translateAll p false 0x00 (keyBytes b) = ([acceptEvent p b, .none, .none], false, 0x00) := by
  rw [keyBytes, releasePrefix, translateAll_cons (translateByte_of_ne_last p hb h0),
    translateAll_cons (translateByte_releasePrefix p false b), translateAll_cons (translateByte_of_pend p b hb),
    translateAll_nil]

theorem translateAll_flatMap_keyBytes (p : Params) {keys : List Byte} (hkeys : ∀ b ∈ keys, b ≠ 0xF0 ∧ b ≠ 0x00) :
    translateAll p false 0x00 (keys.flatMap keyBytes) =
      (keys.flatMap fun b => [acceptEvent p b, .none, .none], false, 0x00) := by
  induction keys with
  | nil => rfl
  | cons b keys ih =>
    obtain ⟨⟨hb, h0⟩, hkeys⟩ := List.forall_mem_cons.mp hkeys
    rw [List.flatMap_cons, translateAll_append, translateAll_keyBytes p hb h0, ih hkeys, List.flatMap_cons]

end Sys2Proof.Machine

namespace Sys2Proof.Proofs

/-- Settles O48: the frames of the keys hand out their bytes, and the run's events are the translator's over these. -/
theorem typedKeysComeOutInOrder : Obligations.TypedKeysComeOutInOrder := by
  intro keys s hacc hc hpend hlast hkeys
  have hrun : (keys.flatMap fun b => (Pseudo.key b).expand) = (keys.flatMap keyBytes).flatMap frameThenTake := by
    simp only [expand_key, List.flatMap_assoc]
  rw [hrun]
  obtain ⟨⟨pend, last, o, ht⟩, hbytes⟩ := execAll_flatMap_frameThenTake (keys.flatMap keyBytes) hacc hc
  have hreset : ∀ i ∈ (keys.flatMap keyBytes).flatMap frameThenTake, i ≠ .reset := by
    intro i hi
    obtain ⟨b, -, hib⟩ := List.mem_flatMap.mp hi
    exact ne_reset_of_mem_frameThenTake hib
  obtain ⟨hevents, hregisters⟩ := execAll_translates hreset ht
  rw [hbytes, hpend, hlast, translateAll_flatMap_keyBytes _ hkeys] at hevents hregisters
  obtain ⟨hpend', hlast'⟩ := Prod.mk.inj hregisters
  obtain ⟨hf, -, hr⟩ := hacc.holds_nil hc
  refine ⟨by rw [hevents, List.map_flatMap]; rfl, _, ht, ?_, by simpa using hr, hf⟩
  have hidle : s.setTranslator pend last = s :=
    congrArg₂ (fun p l => s.setTranslator p l) (hpend'.trans hpend.symm) (hlast'.trans hlast.symm)
  rw [hidle]
  rfl

end Sys2Proof.Proofs
end

section
/-! PROOFS of the exceptions' obligations (60_exceptions.md): a step from within 10_state.md R26 answers a next state, and a machine
on a run goes on for any number of steps. -/

open Sys2Proof Sys2Proof.Machine

namespace Sys2Proof.Machine

/-- EDGE-DET's part of a cycle does not touch the accumulator. -/
theorem State.AccumulatorOk.runEdgeDet {s : State} (hs : s.AccumulatorOk) (c : PortSample) :
    (s.runEdgeDet c).AccumulatorOk := by
  unfold State.runEdgeDet
  split
  · exact hs
  · exact hs

end Sys2Proof.Machine

namespace Sys2Proof.Proofs

/-- At either level of 00_scope.md R5 an input is one operation, on a state within R26. -/
theorem perform_next_of_accumulatorOk (i : Input) {s : State} (hs : s.AccumulatorOk) : ∃ t, perform i s = .next t := by
  cases i with
  | word w => exact exec_next_of_accumulatorOk (decodeWord w) hs
  | cycle c => exact exec_next_of_accumulatorOk (decodeWord (s.cycleWord c)) (hs.runEdgeDet c)

theorem step_next_of_accumulatorOk {s : State} (hs : s.AccumulatorOk) : ∃ t, step s = .next t :=
  perform_next_of_accumulatorOk (s := s.dropInput) s.nextInput hs

/-- A reachable state is within R26 (O52), so it has a next state, which is reachable again. -/
theorem run_next_of_reachable (n : Nat) {s : State} (hs : Reachable s) : ∃ t, Host.Core.run core n s = .next t := by
  induction n generalizing s with
  | zero => exact ⟨s, rfl⟩
  | succ n ih =>
    obtain ⟨-, hacc, -⟩ := hs.inv
    obtain ⟨u, hu⟩ := step_next_of_accumulatorOk hacc
    obtain ⟨t, ht⟩ := ih (hs.step s u hu)
    exact ⟨t, (run_succ_of_next hu).trans ht⟩

/-- Settles O54, by the one stop's state being outside R26, and induction on the number of steps. -/
theorem noStopOnAWellFormedState : Obligations.NoStopOnAWellFormedState := by
  refine ⟨fun i _ hs => exec_next_of_accumulatorOk i hs, fun _ hs => step_next_of_accumulatorOk hs, fun s hs => ?_⟩
  obtain ⟨-, hacc, -⟩ := hs.inv
  exact ⟨fun i => exec_next_of_accumulatorOk i hacc, fun n => run_next_of_reachable n hs⟩

end Sys2Proof.Proofs
end

section
/-! PROOFS of the reset's obligations (70_reset_and_hazards.md): what RESET leaves, how EDGE-DET starts after it, and OUT being
zero where no frame was taken. -/

open Sys2Proof Sys2Proof.Machine

namespace Sys2Proof.Machine

/-! ### EDGE-DET in and after a cycle with rst = 1 (R201) -/

/-- With rst = 1 the ports mask EDGE-DET's event. -/
theorem cycleWord_eg_of_rst {c : PortSample} (s : State) (hr : c.rst = true) : (s.cycleWord c).getLsbD 1 = false := by
  rw [State.cycleWord, opWord_eg, hr]
  rfl

/-- A cycle with rst = 1 leaves EDGE-DET as a machine starts with it. -/
theorem initial_sameEdgeDet_edgeDetAfter {c : PortSample} (s : State) (hr : c.rst = true) :
    SameEdgeDet (State.initial s.params) (s.edgeDetAfter c) := by
  rw [State.edgeDetAfter, if_pos hr]
  exact ⟨rfl, rfl, rfl, rfl⟩

theorem length_cycleWords (cs : List PortSample) (s : State) : (State.cycleWords cs s).length = cs.length := by
  induction cs generalizing s with
  | nil => rfl
  | cons c cs ih => simp only [State.cycleWords, List.length_cons, ih]

/-- A line seen low was seen no further back than the first sample: before it the line is idle. -/
theorem le_of_lineBefore_eq_false {samples : List Bool} {n k : Nat} (h : lineBefore samples n k = false) : n ≤ k := by
  by_contra hk
  simp [lineBefore, Nat.lt_of_not_le hk] at h

end Sys2Proof.Machine

namespace Sys2Proof.Proofs

/-- Settles O10: after reset EDGE-DET gives the words of a machine that starts (O9), and an event needs the clock line low
SYNC_STAGES cycles before. -/
theorem noEdgeEventDuringOrSoonAfterReset : Obligations.NoEdgeEventDuringOrSoonAfterReset := by
  refine ⟨fun s c rest hs hr => ⟨?_, cycleWord_eg_of_rst s hr⟩, fun s c cs k w hr hrst hn hw heg => ?_⟩
  · obtain ⟨-, hreset, -⟩ := stepPerformsThePresentedWord
    exact (hreset s c rest hs hr).trans (exec_reset _)
  · rw [(initial_sameEdgeDet_edgeDetAfter s hr).cycleWords_eq cs] at hw
    obtain ⟨hk, -⟩ := List.getElem?_eq_some_iff.mp hw
    rw [length_cycleWords] at hk
    obtain ⟨-, hhistory, -⟩ := edgeDetectorFindsFallingEdges
    obtain ⟨w', hw', hiff, -⟩ := hhistory s.params cs k hn hrst hk
    obtain rfl : w' = w := Option.some.inj (hw'.symm.trans hw)
    exact le_of_lineBefore_eq_false (hiff.mp heg).2

/-- Settles O12: RESET writes the initial values and keeps the parameters and inputs. -/
theorem initialStateIsWhatResetLeaves : Obligations.InitialStateIsWhatResetLeaves :=
  ⟨exec_reset, rfl, exec_reset State.reset⟩

/-- Settles O14: what RESET leaves depends on the parameters and inputs only, which it keeps. -/
theorem resetEffect : Obligations.ResetEffect := by
  refine ⟨exec_reset, fun _ => decodeWord_of_bit_three, fun s t h => ?_⟩
  rw [exec_reset] at h
  cases h
  exact exec_reset _

/-- Settles O23, by the operation: each writes OUT once, and only a TAKE of a ready frame writes another value there. -/
theorem outIsValidForOneStep : Obligations.OutIsValidForOneStep := by
  intro i s t h hcase
  cases i with
  | reset => cases h; rfl
  | nop => cases h; rfl
  | edge d => exact edgeFramer_out (s := s.setOut Out.zero) h
  | take =>
    have hr : s.ready = false := hcase.resolve_left fun ⟨hne, _⟩ => hne rfl
    rw [exec_take, takeFramer_of_not_ready hr] at h
    cases h
    rfl
  | takeEdge d =>
    have hr : s.ready = false := hcase.resolve_left fun ⟨_, hne⟩ => hne d rfl
    rw [exec_takeEdge, takeFramer_of_not_ready hr] at h
    exact edgeFramer_out h

end Sys2Proof.Proofs
end
